-- ==== Sys2Proof/Word.lean ====
section
/-! DEFINITION. The word types of the core: registers are 32 bits (`XLEN`), buffer cells 16 bits (`CELLW`),
table symbols 8 bits (spec 00_scope.md R9, 10_state.md R28, R32). -/

namespace Sys2Proof

/-- A scalar register or a command word: `XLEN = 32` bits (R9, R21). -/
abbrev Word := BitVec 32

/-- One cell of a vector buffer: `CELLW = 16` bits (R9, R28). -/
abbrev CellWord := BitVec 16

/-- One entry of a field table or of a generator polynomial: a field element or an exponent, at most `MAXM = 8` bits (R32). -/
abbrev Symbol := BitVec 8

/-- The 32-bit register value of a non-negative result. -/
abbrev word32 (n : Nat) : Word := BitVec.ofNat 32 n

end Sys2Proof
end

