-- ==== Sys2Proof/Config.lean ====
section
/-! DEFINITION. What an implementation fixes (spec 00_scope.md R9: every value is the one the spec gives) and the
free values, for what the spec leaves without a value (93_implementation_defined.md U1, U2, U4). -/

namespace Sys2Proof.Config

/-- Number of field slots (R9). -/
abbrev NF : Nat := 2
/-- Largest symbol width (R9). -/
abbrev MAXM : Nat := 8
/-- Number of BCH slots (R9). -/
abbrev NBCH : Nat := 6
/-- Largest `codewordBits` of a BCH table configuration (R9). -/
abbrev BCH_MAXN : Nat := 32
/-- Largest degree of a BCH generator polynomial: its mask is one 32-bit register (R9). -/
abbrev BCH_MAXDEG : Nat := 31
/-- Largest `syndromeBits` (R9). -/
abbrev BCH_MAXSYN : Nat := 12
/-- Number of Reed-Solomon slots (R9). -/
abbrev NRS : Nat := 4
/-- Largest `nsym` of a Reed-Solomon slot (R9). -/
abbrev MAXNSYM : Nat := 32
/-- Number of puncture-schedule slots (R9). -/
abbrev NPS : Nat := 4
/-- Largest puncture-schedule period (R9). -/
abbrev MAXPERIOD : Nat := 32
/-- Largest convolutional-encoder register length (R9). -/
abbrev CV_MAXK : Nat := 32
/-- Number of cells in each vector buffer (R9). -/
abbrev VLEN : Nat := 4096

/-- The constant in `ID`, ASCII "GFEC" (R23). -/
abbrev idValue : Word := 0x47464543

/-- FREE VALUE (log 3, log 4): what a buffer cell of unspecified content reads as (U1). The arguments are the buffer's
seed, the buffer's number and the cell's index: the same cell reads the same until its content is lost again. -/
opaque freeCell : Nat → Nat → Nat → CellWord

/-- FREE VALUE (log 7): what an exponent-table entry that no successful build has written reads as (U2). -/
opaque freeExp : Nat → Symbol

/-- FREE VALUE (log 7, log 8): what a logarithm-table entry that no successful build has written reads as; entry 0 is
one at all times (R33, U2, U4). -/
opaque freeLog : Nat → Symbol

end Sys2Proof.Config
end

