-- ==== Sys2Proof/Syntax.lean ====
section
/-! DEFINITION. The instructions: one constructor for each of the 33 rows of spec/opcode_table.json (30_encoding.md
R83). The only operand in a command word is the slot selector `SEL` of the rows that have one; all other operands are
in the `ARG` registers and the buffers (R80, R82). -/

namespace Sys2Proof

/-- A command. The argument, where there is one, is the `SEL` field: the number of a field slot `f`, a BCH slot `c`, a
Reed-Solomon slot `r` or a schedule slot `p`. -/
inductive Instr where
  /-- `SYS.NOP` (R226). -/
  | sysNop
  /-- `GF.BUILD.f` (R102). -/
  | gfBuild (f : Nat)
  /-- `GF.ADD.f` (R108). -/
  | gfAdd (f : Nat)
  /-- `GF.MUL.f` (R109). -/
  | gfMul (f : Nat)
  /-- `GF.DIV.f` (R110). -/
  | gfDiv (f : Nat)
  /-- `GF.EXP.f` (R111). -/
  | gfExp (f : Nat)
  /-- `GF.LOG.f` (R112). -/
  | gfLog (f : Nat)
  /-- `GF.PADD.f` (R115). -/
  | gfPadd (f : Nat)
  /-- `GF.PMUL.f` (R116). -/
  | gfPmul (f : Nat)
  /-- `BCH.BUILD.c` (R133). -/
  | bchBuild (c : Nat)
  /-- `BCH.DIV` (R135). -/
  | bchDiv
  /-- `BCH.REPAIR` (R136). -/
  | bchRepair
  /-- `BCH.LOOKUP.c` (R138). -/
  | bchLookup (c : Nat)
  /-- `BCH.SYNRD.c` (R139). -/
  | bchSynrd (c : Nat)
  /-- `RS.CFG.r` (R152). -/
  | rsCfg (r : Nat)
  /-- `RS.GPOLY.r` (R153). -/
  | rsGpoly (r : Nat)
  /-- `RS.ENC.r` (R155). -/
  | rsEnc (r : Nat)
  /-- `RS.SYND.r` (R157). -/
  | rsSynd (r : Nat)
  /-- `RS.ELOC.r` (R160). -/
  | rsEloc (r : Nat)
  /-- `RS.EPOS.r` (R162). -/
  | rsEpos (r : Nat)
  /-- `RS.CORR.r` (R164). -/
  | rsCorr (r : Nat)
  /-- `RS.DEC.r` (R166). -/
  | rsDec (r : Nat)
  /-- `RS.CHECK.r` (R169). -/
  | rsCheck (r : Nat)
  /-- `RS.FIX.r` (R170). -/
  | rsFix (r : Nat)
  /-- `CV.ENC` (R191). -/
  | cvEnc
  /-- `PN.CFG.p` (R193). -/
  | pnCfg (p : Nat)
  /-- `PN.PUNC.p` (R194). -/
  | pnPunc (p : Nat)
  /-- `PN.DEPUNC.p` (R196). -/
  | pnDepunc (p : Nat)
  /-- `FR.NORM` (R206). -/
  | frNorm
  /-- `FR.DEINT` (R209). -/
  | frDeint
  /-- `FR.CSUM16` (R212). -/
  | frCsum16
  /-- `FR.REV8` (R208). -/
  | frRev8
  /-- `BUF.COPY` (R227). -/
  | bufCopy
deriving DecidableEq, Repr

end Sys2Proof
end

