-- ==== Sys2Proof/WellFormed.lean ====
section
/-! DEFINITION. When an instruction is one that a command word can hold: its selector fits the four bits of `SEL`
(30_encoding.md R80). A selector that fits the field but names no slot is well formed: it is an operand error of the
command, not an illegal word (R85). -/

namespace Sys2Proof

/-- The selector of an instruction that has one (the "sel" column of R83). -/
def Instr.selector : Instr → Option Nat
  | .sysNop => none
  | .gfBuild f => some f
  | .gfAdd f => some f
  | .gfMul f => some f
  | .gfDiv f => some f
  | .gfExp f => some f
  | .gfLog f => some f
  | .gfPadd f => some f
  | .gfPmul f => some f
  | .bchBuild c => some c
  | .bchDiv => none
  | .bchRepair => none
  | .bchLookup c => some c
  | .bchSynrd c => some c
  | .rsCfg r => some r
  | .rsGpoly r => some r
  | .rsEnc r => some r
  | .rsSynd r => some r
  | .rsEloc r => some r
  | .rsEpos r => some r
  | .rsCorr r => some r
  | .rsDec r => some r
  | .rsCheck r => some r
  | .rsFix r => some r
  | .cvEnc => none
  | .pnCfg p => some p
  | .pnPunc p => some p
  | .pnDepunc p => some p
  | .frNorm => none
  | .frDeint => none
  | .frCsum16 => none
  | .frRev8 => none
  | .bufCopy => none

/-- The one check: a selector is below 16 (`SEL = w[11:8]`, R80). -/
def Instr.wellFormed (i : Instr) : Bool :=
  match i.selector with
  | none => true
  | some n => decide (n < 16)

end Sys2Proof
end

