-- ==== Sys2Proof/Decode.lean ====
section
/-! DEFINITION. The command word: decoding, total on every 32-bit word and rejecting by name (30_encoding.md R80,
R84, R85), and the encoder written from the same table (R83). -/

namespace Sys2Proof

/-- Why a word matches no row of the opcode table (R85). The core tells the host only `IllegalCommand`; the names are
the model's (log 26). -/
inductive DecodeError where
  /-- `OPC` is none of R83's operation codes. -/
  | unassignedOpcode (opc : Nat)
  /-- `w[31:12]` is not zero. -/
  | zeroFieldSet
  /-- `SEL` is not zero on an operation without a selector. -/
  | selectorSet (opc : Nat)
deriving DecidableEq, Repr

/-- `OPC = w[7:0]` (R80). -/
def opcField (w : Word) : Nat := (w.extractLsb' 0 8).toNat

/-- `SEL = w[11:8]` (R80). -/
def selField (w : Word) : Nat := (w.extractLsb' 8 4).toNat

/-- `ZERO = w[31:12]` (R80). -/
def zeroField (w : Word) : Nat := (w.extractLsb' 12 20).toNat

/-- An operation without a selector: `SEL` must be 0 (R84, R85). -/
def withoutSelector (opc sel : Nat) (i : Instr) : Except DecodeError Instr :=
  if sel = 0 then .ok i else .error (.selectorSet opc)

/-- The rows of R83 by operation code. -/
def decodeRow (opc sel : Nat) : Except DecodeError Instr :=
  match opc with
  | 0x00 => withoutSelector opc sel .sysNop
  | 0x01 => .ok (.gfBuild sel)
  | 0x02 => .ok (.gfAdd sel)
  | 0x03 => .ok (.gfMul sel)
  | 0x04 => .ok (.gfDiv sel)
  | 0x05 => .ok (.gfExp sel)
  | 0x06 => .ok (.gfLog sel)
  | 0x08 => .ok (.gfPadd sel)
  | 0x09 => .ok (.gfPmul sel)
  | 0x10 => .ok (.bchBuild sel)
  | 0x11 => withoutSelector opc sel .bchDiv
  | 0x12 => withoutSelector opc sel .bchRepair
  | 0x13 => .ok (.bchLookup sel)
  | 0x14 => .ok (.bchSynrd sel)
  | 0x20 => .ok (.rsCfg sel)
  | 0x21 => .ok (.rsGpoly sel)
  | 0x22 => .ok (.rsEnc sel)
  | 0x23 => .ok (.rsSynd sel)
  | 0x24 => .ok (.rsEloc sel)
  | 0x25 => .ok (.rsEpos sel)
  | 0x26 => .ok (.rsCorr sel)
  | 0x27 => .ok (.rsDec sel)
  | 0x28 => .ok (.rsCheck sel)
  | 0x29 => .ok (.rsFix sel)
  | 0x30 => withoutSelector opc sel .cvEnc
  | 0x31 => .ok (.pnCfg sel)
  | 0x32 => .ok (.pnPunc sel)
  | 0x33 => .ok (.pnDepunc sel)
  | 0x40 => withoutSelector opc sel .frNorm
  | 0x41 => withoutSelector opc sel .frDeint
  | 0x42 => withoutSelector opc sel .frCsum16
  | 0x43 => withoutSelector opc sel .frRev8
  | 0x50 => withoutSelector opc sel .bufCopy
  | n => .error (.unassignedOpcode n)

/-- Decoding needs nothing but the word (R84); every word that matches no row is illegal (R85). -/
def decode (w : Word) : Except DecodeError Instr :=
  if zeroField w = 0 then decodeRow (opcField w) (selField w) else .error .zeroFieldSet

/-- The operation code of each row (R83). -/
def Instr.opcode : Instr → Nat
  | .sysNop => 0x00
  | .gfBuild _ => 0x01
  | .gfAdd _ => 0x02
  | .gfMul _ => 0x03
  | .gfDiv _ => 0x04
  | .gfExp _ => 0x05
  | .gfLog _ => 0x06
  | .gfPadd _ => 0x08
  | .gfPmul _ => 0x09
  | .bchBuild _ => 0x10
  | .bchDiv => 0x11
  | .bchRepair => 0x12
  | .bchLookup _ => 0x13
  | .bchSynrd _ => 0x14
  | .rsCfg _ => 0x20
  | .rsGpoly _ => 0x21
  | .rsEnc _ => 0x22
  | .rsSynd _ => 0x23
  | .rsEloc _ => 0x24
  | .rsEpos _ => 0x25
  | .rsCorr _ => 0x26
  | .rsDec _ => 0x27
  | .rsCheck _ => 0x28
  | .rsFix _ => 0x29
  | .cvEnc => 0x30
  | .pnCfg _ => 0x31
  | .pnPunc _ => 0x32
  | .pnDepunc _ => 0x33
  | .frNorm => 0x40
  | .frDeint => 0x41
  | .frCsum16 => 0x42
  | .frRev8 => 0x43
  | .bufCopy => 0x50

/-- The command word of a well-formed instruction: `OPC` in bits 7..0, `SEL` in bits 11..8, zeros above (R80). -/
def encode (i : Instr) : Word :=
  word32 (i.opcode + 256 * i.selector.getD 0)

/-- A row's `mask` in spec/opcode_table.json: `SEL` is free for the operations with a selector (R84). -/
def Instr.rowMask (i : Instr) : Word :=
  match i.selector with
  | none => 0xFFFFFFFF
  | some _ => 0xFFFFF0FF

/-- A row's `match` in spec/opcode_table.json: the operation code alone (R84). -/
def Instr.rowMatch (i : Instr) : Word := word32 i.opcode

/-- The instruction the decoder reads from a command word given as a number of `nbits` bits, bit 0 the least
significant; the bits above `nbits` are zero. -/
def decodeTableWord (nbits w : Nat) : Option Instr :=
  match decode (word32 (w % 2 ^ nbits)) with
  | .ok i => some i
  | .error _ => none

end Sys2Proof
end

