-- ==== Sys2Proof/Machine/State.lean ====
section
/-! DEFINITION. The state of one core (spec 10_state.md R20), its reasons to stop, and the state after reset (R44). -/

namespace Sys2Proof.Machine

open Sys2Proof.Config

/-- The machine has no fault: every accepted command ends with a condition, which is a next state (60_exceptions.md
R240, R243), and what the spec leaves without meaning is refused (log 11). Nothing raises one. -/
inductive Fault where
deriving DecidableEq, Repr

/-- The reasons the model has no next state. -/
inductive Refusal where
  /-- Raised by `exec` for an instruction without a meaning yet; safe. No arm of this model answers it. -/
  | notModelled (mnemonic : String)
  /-- Raised by a HostRead of an unmapped or reserved word index, whose effect the spec does not define: "a model
  refuses it" (20_memory.md R64, U7, U9); safe. -/
  | unmappedRead (idx : Nat)
  /-- Raised by a HostWrite of an unmapped or reserved word index (R64, U7, U9); safe. -/
  | unmappedWrite (idx : Nat)
deriving DecidableEq, Repr

/-- The conditions a command can end with, in the order of their codes 0 to 11 (60_exceptions.md R240). -/
inductive Cond where
  /-- 0: success. -/
  | ok
  /-- 1: reserved for host logs, never raised by the core (R253). -/
  | parseError
  /-- 2: fewer cells than the stream's minimum (R250). -/
  | inputTooShort
  /-- 3: division by the zero of a field (R247). -/
  | divisionByZero
  /-- 4: no correction of at most two bits found (R248). -/
  | uncorrectable
  /-- 5: root count differs from the locator's degree (R249). -/
  | locatorNotFound
  /-- 6: non-zero syndromes after correction, or too many erasures (R249). -/
  | uncorrectableMessage
  /-- 7: table construction failed, the one fatal condition (R245). -/
  | configError
  /-- 8: the word matches no row of the opcode table (R251). -/
  | illegalCommand
  /-- 9: a selector, a scalar operand or a cell is out of range (R251). -/
  | operandRange
  /-- 10: a length is out of range (R251). -/
  | lengthError
  /-- 11: the selected slot is not valid (R252). -/
  | tableNotBuilt
deriving DecidableEq, Repr

/-- The five vector buffers (10_state.md R29). -/
inductive BufId where
  /-- Input buffer `A`. -/
  | a
  /-- Input buffer `B`. -/
  | b
  /-- Input buffer `C`. -/
  | c
  /-- Output buffer `R`. -/
  | r
  /-- Output buffer `Q`. -/
  | q
deriving DecidableEq, Repr

/-- What a host can do to the core: its two primitives (20_memory.md R61) and the reset input (70_reset_and_hazards.md
R280). Word indices are numbers; there is no narrower access (R62, log 23). -/
inductive HostAccess where
  /-- `HostRead(idx)`. -/
  | read (idx : Nat)
  /-- `HostWrite(idx, v)`. -/
  | write (idx : Nat) (v : Word)
  /-- The reset input is asserted. -/
  | reset
deriving DecidableEq, Repr

/-- `STATUS` (R24), field by field; bits 31..10 hold nothing (log 15). -/
structure Status where
  /-- `COND`: how the last accepted command ended. -/
  cond : Cond
  /-- `DONE`: some command has been accepted since reset. -/
  done : Bool
  /-- `HALTED`: a command ended with the fatal condition. -/
  halted : Bool
deriving DecidableEq, Repr

/-- Four scalar registers: `ARG[0..3]` or `RES[0..3]` (R21). -/
structure Quad where
  /-- Register 0. -/
  r0 : Word
  /-- Register 1. -/
  r1 : Word
  /-- Register 2. -/
  r2 : Word
  /-- Register 3. -/
  r3 : Word
deriving DecidableEq, Repr

/-- A vector buffer with its length register (R29). -/
structure Buffer where
  /-- The cells whose content is specified, as (index, value), indices strictly rising and below `VLEN`; the content of
  any other cell is unspecified (log 3). -/
  cells : List (Nat × CellWord)
  /-- MODEL: the free values its unlisted cells read as (log 4). -/
  seed : Nat
  /-- The length register (`ALEN`, `BLEN`, `CLEN`, `RLEN` or `QLEN`). -/
  len : Word
deriving DecidableEq, Repr

/-- A field slot (R32). -/
structure FieldSlot where
  /-- `FVALID`. -/
  valid : Bool
  /-- `FM`, the symbol width `m`. -/
  m : Nat
  /-- `FPRIM`, the primitive polynomial as a mask of `m + 1` bits. -/
  prim : BitVec 9
  /-- `FGEN`, the generator element. -/
  gen : Symbol
  /-- `EXP[0 .. 2N-1]`. -/
  exp : List Symbol
  /-- `LOG[1 .. N]`, entry `x` at place `x - 1`; `LOG[0]` has no content (R33, log 8). -/
  log : List Symbol
deriving DecidableEq, Repr

/-- What a present entry of a syndrome table holds (R36). -/
structure SynEntry where
  /-- The number of bits in error, 1 or 2. -/
  weight : BitVec 2
  /-- The mask of the bits in error. -/
  pattern : Word
deriving DecidableEq, Repr

/-- A BCH slot (R35). -/
structure BchSlot where
  /-- `BVALID`. -/
  valid : Bool
  /-- `BPOLY`, the generator polynomial as a mask. -/
  poly : Word
  /-- `BN`, the number of bits of a codeword. -/
  n : Nat
  /-- `BSYN`, the number of bits of a syndrome. -/
  synbits : Nat
  /-- `BMAXE`, the number of errors the table was asked for. -/
  maxErrors : Nat
  /-- The present entries of `SYN` as (syndrome, entry), syndromes strictly rising; an unlisted one is empty (log 9). -/
  syn : List (Nat × SynEntry)
deriving DecidableEq, Repr

/-- A Reed-Solomon slot (R38). -/
structure RsSlot where
  /-- `RVALID`. -/
  valid : Bool
  /-- `RFIELD`, the field slot it refers to. -/
  field : Fin NF
  /-- `RNSYM`, the number of parity symbols. -/
  nsym : Nat
  /-- `RFCR`, the first consecutive root. -/
  fcr : Nat
  /-- `RGEN`, the generator element. -/
  gen : Symbol
  /-- `GENPOLY[0 .. nsym]`, most significant coefficient first. -/
  genpoly : List Symbol
deriving DecidableEq, Repr

/-- A puncture-schedule slot (R40). -/
structure SchedSlot where
  /-- `PVALID`. -/
  valid : Bool
  /-- `PPERIOD`. -/
  period : Nat
  /-- `PPATTERN`: bit `i` is 1 where position `i` of the period is kept. -/
  pattern : Word
deriving DecidableEq, Repr

/-- The whole architectural state (R20) and, last, the model's own three fields. `ID`, `CTRL`, `CMD` and the table
`REV8` hold nothing that can change (log 14). -/
structure State where
  /-- `STATUS` (R24). -/
  status : Status
  /-- `EVLOG` (R25). -/
  evlog : Word
  /-- `CMDSEQ` (R26). -/
  cmdseq : Word
  /-- `LASTCMD` (R27). -/
  lastcmd : Word
  /-- `ARG[0..3]` (R21). -/
  arg : Quad
  /-- `RES[0..3]` (R21). -/
  res : Quad
  /-- `A`, `ALEN` (R29). -/
  a : Buffer
  /-- `B`, `BLEN` (R29). -/
  b : Buffer
  /-- `C`, `CLEN` (R29). -/
  c : Buffer
  /-- `R`, `RLEN` (R29). -/
  r : Buffer
  /-- `Q`, `QLEN` (R29). -/
  q : Buffer
  /-- The field slots (R32). -/
  fields : Vector FieldSlot NF
  /-- The BCH slots (R35). -/
  bch : Vector BchSlot NBCH
  /-- The Reed-Solomon slots (R38). -/
  rs : Vector RsSlot NRS
  /-- The schedule slots (R40). -/
  sched : Vector SchedSlot NPS
  /-- MODEL: the accesses the host has issued and the core has not performed, oldest first (log 1). -/
  pending : List HostAccess
  /-- MODEL: what the last HostRead returned (log 2). -/
  busData : Option Word
  /-- MODEL: the next seed of free values (log 4). -/
  fresh : Nat
deriving DecidableEq, Repr

/-- Four registers of value 0 (R21). -/
def Quad.zero : Quad := { r0 := 0, r1 := 0, r2 := 0, r3 := 0 }

/-- A buffer after reset: length 0, every cell unspecified (R29, R44). -/
def Buffer.empty (seed : Nat) : Buffer := { cells := [], seed := seed, len := 0 }

/-- A field slot after reset: not valid, nothing listed (R44; log 6). -/
def FieldSlot.empty : FieldSlot := { valid := false, m := 0, prim := 0, gen := 0, exp := [], log := [] }

/-- A BCH slot after reset (R44; log 6). -/
def BchSlot.empty : BchSlot := { valid := false, poly := 0, n := 0, synbits := 0, maxErrors := 0, syn := [] }

/-- A Reed-Solomon slot after reset (R44; log 6). -/
def RsSlot.empty : RsSlot := { valid := false, field := 0, nsym := 0, fcr := 0, gen := 0, genpoly := [] }

/-- A schedule slot after reset (R44; log 6). -/
def SchedSlot.empty : SchedSlot := { valid := false, period := 0, pattern := 0 }

/-- The machine right after reset (10_state.md R44, 70_reset_and_hazards.md R280). No host access is pending (log 1). -/
def State.reset : State where
  status := { cond := .ok, done := false, halted := false }
  evlog := 0
  cmdseq := 0
  lastcmd := 0
  arg := Quad.zero
  res := Quad.zero
  a := Buffer.empty 0
  b := Buffer.empty 0
  c := Buffer.empty 0
  r := Buffer.empty 0
  q := Buffer.empty 0
  fields := Vector.replicate NF FieldSlot.empty
  bch := Vector.replicate NBCH BchSlot.empty
  rs := Vector.replicate NRS RsSlot.empty
  sched := Vector.replicate NPS SchedSlot.empty
  pending := []
  busData := none
  fresh := 1

end Sys2Proof.Machine
end

