-- ==== Sys2Proof/Machine/Flags.lean ====
section
/-! DEFINITION. The core's only flag computations: condition codes, the `STATUS` word, the sticky log `EVLOG`
(10_state.md R24, R25; 60_exceptions.md R240, R245). No arithmetic of the core sets a flag (41_field_engine.md R117). -/

namespace Sys2Proof.Machine

/-- The 8-bit code of a condition (R240). -/
def Cond.code : Cond → Nat
  | .ok => 0
  | .parseError => 1
  | .inputTooShort => 2
  | .divisionByZero => 3
  | .uncorrectable => 4
  | .locatorNotFound => 5
  | .uncorrectableMessage => 6
  | .configError => 7
  | .illegalCommand => 8
  | .operandRange => 9
  | .lengthError => 10
  | .tableNotBuilt => 11

/-- `ConfigError` is the only fatal condition (R245). -/
def Cond.fatal : Cond → Bool
  | .ok => false
  | .parseError => false
  | .inputTooShort => false
  | .divisionByZero => false
  | .uncorrectable => false
  | .locatorNotFound => false
  | .uncorrectableMessage => false
  | .configError => true
  | .illegalCommand => false
  | .operandRange => false
  | .lengthError => false
  | .tableNotBuilt => false

/-- The `STATUS` register as the host reads it: `COND` in 7..0, `DONE` in 8, `HALTED` in 9, zeros above (R24). -/
def Status.word (x : Status) : Word :=
  word32 (x.cond.code + 256 * x.done.toNat + 512 * x.halted.toNat)

/-- `EVLOG[code] <- 1`; a success logs nothing (R25, R243). -/
def evlogRecord (k : Cond) (e : Word) : Word :=
  if k = .ok then e else e ||| ((1 : Word) <<< k.code)

/-- The host's write-1-to-clear; bit 7 (`ConfigError`) is cleared by reset alone (R25). -/
def evlogClear (v e : Word) : Word := e &&& ~~~(v &&& ~~~((1 : Word) <<< Cond.configError.code))

/-- `STATUS` after a command ended with condition `k` (R24, R243). -/
def Status.endWith (k : Cond) (x : Status) : Status :=
  { x with cond := k, halted := x.halted || k.fatal }

end Sys2Proof.Machine
end

