-- ==== Sys2Proof/Machine/Ops.lean ====
section
/-! DEFINITION. The named operations over the state: how a command ends (the core's exception entry), buffers, scalar
results, slots, acceptance and reset. -/

namespace Sys2Proof.Machine

open Sys2Proof.Config

/-- What running a command, or one host access, answers. -/
abbrev Result := Host.Outcome State Fault Refusal

/-! ### How a command ends (60_exceptions.md R243) -/

/-- A command ends with condition `k`: `COND` is written, the sticky bit set, the core halted if `k` is fatal, and
nothing else happens: no handler, no vector, no saved context (R243). -/
def endWith (k : Cond) (s : State) : State :=
  { s with status := s.status.endWith k, evlog := evlogRecord k s.evlog }

/-- `raise K` (R243). There is no return from it: the host issues the next command (R256). -/
def raise (k : Cond) (s : State) : Result := .next (endWith k s)

/-- A command that completes ends with `OK` (R243). -/
def complete (s : State) : Result := .next (endWith .ok s)

/-- Acceptance of the command word `w` by a core that is not halted (10_state.md R26, R27). -/
def accept (w : Word) (s : State) : State :=
  { s with lastcmd := w, cmdseq := s.cmdseq + 1, status := { s.status with done := true } }

/-! ### Scalar results (10_state.md R21) -/

/-- `RES[0] <- v`. -/
def State.setRes0 (v : Nat) (s : State) : State := { s with res := { s.res with r0 := word32 v } }

/-- `RES[1] <- v`. -/
def State.setRes1 (v : Nat) (s : State) : State := { s with res := { s.res with r1 := word32 v } }

/-- `RES[2] <- v`. -/
def State.setRes2 (v : Nat) (s : State) : State := { s with res := { s.res with r2 := word32 v } }

/-- Register `i` of four; the register map names 0 to 3 only (R23). -/
def Quad.get (x : Quad) (i : Fin 4) : Word :=
  match i with
  | 0 => x.r0
  | 1 => x.r1
  | 2 => x.r2
  | 3 => x.r3

/-- Register `i` of four, written. -/
def Quad.set (x : Quad) (i : Fin 4) (v : Word) : Quad :=
  match i with
  | 0 => { x with r0 := v }
  | 1 => { x with r1 := v }
  | 2 => { x with r2 := v }
  | 3 => { x with r3 := v }

/-! ### Vector buffers (10_state.md R28 to R31, 20_memory.md R63, R70) -/

/-- The number of a buffer, as `BUF.COPY` numbers them (46_system.md R227). -/
def BufId.number : BufId → Nat
  | .a => 0
  | .b => 1
  | .c => 2
  | .r => 3
  | .q => 4

/-- The host and `BUF.COPY` write `A`, `B`, `C`; `R` and `Q` are outputs (R29). -/
def BufId.isInput : BufId → Bool
  | .a => true
  | .b => true
  | .c => true
  | .r => false
  | .q => false

/-- The buffer of a name. -/
def State.buf (s : State) : BufId → Buffer
  | .a => s.a
  | .b => s.b
  | .c => s.c
  | .r => s.r
  | .q => s.q

/-- The buffer of a name, replaced. -/
def State.setBuf (s : State) : BufId → Buffer → State
  | .a, x => { s with a := x }
  | .b, x => { s with b := x }
  | .c, x => { s with c := x }
  | .r, x => { s with r := x }
  | .q, x => { s with q := x }

/-- The listed content of cell `i`, if there is one. -/
def cellAt : List (Nat × CellWord) → Nat → Option CellWord
  | [], _ => none
  | (k, v) :: rest, i => if k = i then some v else cellAt rest i

/-- What a cell of unspecified content reads as: a free value, the same at every read until the content is lost again
(R63, U1; log 3, log 4). -/
def unlistedCell (seed : Nat) (bid : BufId) (i : Nat) : CellWord := freeCell seed bid.number i

/-- Cell `i` of buffer `bid` (R12 `MemRead`). -/
def readCell (s : State) (bid : BufId) (i : Nat) : CellWord :=
  match cellAt (s.buf bid).cells i with
  | some v => v
  | none => unlistedCell (s.buf bid).seed bid i

/-- The listing with cell `i` written. -/
def insertCell (i : Nat) (v : CellWord) : List (Nat × CellWord) → List (Nat × CellWord)
  | [] => [(i, v)]
  | (k, u) :: rest =>
    if i < k then (i, v) :: (k, u) :: rest
    else if i = k then (i, v) :: rest
    else (k, u) :: insertCell i v rest

/-- Cell `i` of buffer `bid` written; the length register stays (R12 `MemWrite`, R63). -/
def writeCell (s : State) (bid : BufId) (i : Nat) (v : CellWord) : State :=
  s.setBuf bid { s.buf bid with cells := insertCell i v (s.buf bid).cells }

/-- The length register of buffer `bid` written (R29). -/
def setLen (s : State) (bid : BufId) (v : Word) : State :=
  s.setBuf bid { s.buf bid with len := v }

/-- Values listed as the cells `i, i + 1, ...`. -/
def cellsFrom : Nat → List CellWord → List (Nat × CellWord)
  | _, [] => []
  | i, v :: vs => (i, v) :: cellsFrom (i + 1) vs

/-- A command writes output buffer `bid`: the cells from 0 on and the length register; the cells at and beyond the new
length lose their content (R30, R63; log 5). -/
def writeOut (bid : BufId) (vs : List Nat) (s : State) : State :=
  { s.setBuf bid { cells := cellsFrom 0 (vs.map (BitVec.ofNat 16)), seed := s.fresh, len := word32 vs.length } with
    fresh := s.fresh + 1 }

/-- `BUF.COPY` writes the cells `0 .. vs.length - 1` of buffer `bid` and its length register; the other cells keep their
values (46_system.md R227). -/
def copyInto (bid : BufId) (vs : List CellWord) (s : State) : State :=
  s.setBuf bid { s.buf bid with
    cells := cellsFrom 0 vs ++ (s.buf bid).cells.filter (fun c => vs.length ≤ c.1)
    len := word32 vs.length }

/-- The canonical form of one buffer: indices strictly rising, each a cell of the buffer. -/
abbrev Buffer.wf (x : Buffer) : Prop :=
  x.cells.Pairwise (fun c d => c.1 < d.1) ∧ ∀ c ∈ x.cells, c.1 < VLEN

/-- The canonical form of the memory: of all five buffers. -/
abbrev Memory.wf (s : State) : Prop :=
  s.a.wf ∧ s.b.wf ∧ s.c.wf ∧ s.r.wf ∧ s.q.wf

/-! ### Slots (10_state.md R32 to R40; 30_encoding.md R86 steps 3 and 4) -/

/-- Steps 3 and 4 for a command that uses a slot: no such slot is `OperandRange`, a slot that is not valid is
`TableNotBuilt`, and nothing is read from it (R86, R252). -/
def withBuilt {α : Type} {n : Nat} (slots : Vector α n) (valid : α → Bool) (i : Nat) (s : State)
    (go : α → Result) : Result :=
  if h : i < n then
    if valid slots[i] then go slots[i] else raise .tableNotBuilt s
  else raise .operandRange s

/-- Steps 3 and 4 for a build command: no such slot is `OperandRange`, a slot that is already valid is `ConfigError`
(R86, R245). -/
def withUnbuilt {α : Type} {n : Nat} (slots : Vector α n) (valid : α → Bool) (i : Nat) (s : State)
    (go : i < n → Result) : Result :=
  if h : i < n then
    if valid slots[i] then raise .configError s else go h
  else raise .operandRange s

/-! ### Reset (70_reset_and_hazards.md R280, R281) -/

/-- The reset state, entered from `s`: as `State.reset`, every buffer cell unspecified anew. What the host has issued
and what its last read returned are outside the core (log 10). -/
def resetInput (s : State) : State :=
  { State.reset with
    a := Buffer.empty s.fresh
    b := Buffer.empty s.fresh
    c := Buffer.empty s.fresh
    r := Buffer.empty s.fresh
    q := Buffer.empty s.fresh
    pending := s.pending
    busData := s.busData
    fresh := s.fresh + 1 }

end Sys2Proof.Machine
end

