-- ==== Sys2Proof/Machine/Operands.lean ====
section
/-! DEFINITION. The operand forms of the commands (30_encoding.md R82, R86 steps 5 to 7; 20_memory.md R70) and the bit
strings of 00_scope.md R14. Operands are taken as unbounded integers, as the spec's pseudocode does (R16). -/

namespace Sys2Proof.Machine

open Sys2Proof.Config

/-! ### Scalar operands: whole `ARG` registers, unsigned (R82) -/

/-- `ARG[0]`. -/
def State.arg0 (s : State) : Nat := s.arg.r0.toNat
/-- `ARG[1]`. -/
def State.arg1 (s : State) : Nat := s.arg.r1.toNat
/-- `ARG[2]`. -/
def State.arg2 (s : State) : Nat := s.arg.r2.toNat
/-- `ARG[3]`. -/
def State.arg3 (s : State) : Nat := s.arg.r3.toNat

/-! ### Vector operands -/

/-- The length register of a buffer. -/
def State.lenOf (s : State) (bid : BufId) : Nat := (s.buf bid).len.toNat

/-- The `count` cells of buffer `bid` from cell `start` on. -/
def slice (s : State) (bid : BufId) (start count : Nat) : List CellWord :=
  (List.range count).map fun i => readCell s bid (start + i)

/-- `X[0 .. len)`: the cells of a buffer below its length register (R70). -/
def State.vec (s : State) (bid : BufId) : List Nat := (slice s bid 0 (s.lenOf bid)).map BitVec.toNat

/-- Step 6: a length outside `lo .. hi` (R86). -/
def lengthOutside (lo hi n : Nat) : Bool := decide (n < lo) || decide (hi < n)

/-- Step 7: some cell is not below the bound (R86). -/
def someCellFrom (bound : Nat) (xs : List Nat) : Bool := xs.any fun x => decide (bound ≤ x)

/-- Step 7 for a bit string: some cell is neither 0 nor 1 (R86). -/
def someCellNotBit (xs : List Nat) : Bool := someCellFrom 2 xs

/-! ### Bit strings (R14) and masks (R11) -/

/-- `word(b)`: the leftmost cell is the most significant bit (R14). -/
def wordOf (bits : List Nat) : Nat := bits.foldl (fun w b => 2 * w + b) 0

/-- `bits_of(w, L)`: the bit string of length `L` with word `w` (42_bch.md R131). -/
def bitsOf (w L : Nat) : List Nat := (List.range L).map fun i => (w.testBit (L - 1 - i)).toNat

/-- `bitlen(v)`: the number of bits without leading zeros (R11). -/
def bitlen (v : Nat) : Nat := if v = 0 then 0 else Nat.log2 v + 1

/-- The buffer of a `BUF.COPY` number (46_system.md R227). -/
def bufOfNumber : Nat → Option BufId
  | 0 => some .a
  | 1 => some .b
  | 2 => some .c
  | 3 => some .r
  | 4 => some .q
  | _ => none

end Sys2Proof.Machine
end

