-- ==== Sys2Proof/Machine/Bch.lean ====
section
/-! DEFINITION. Unit 2, the BCH Decoder (42_bch.md R130 to R139): division over GF(2), the syndrome table, and the
commands. A bit string of length `L` is given to the pure functions as its word and its length (R14, R131). -/

namespace Sys2Proof.Machine

open Sys2Proof.Config

/-! ### Division (R131) -/

/-- The loop of `gf2_rem`: bit positions from `p - 1` down to the degree `d`. -/
def gf2Loop (poly d : Nat) : Nat → Nat → Nat
  | 0, w => w
  | p + 1, w =>
    if p < d then w
    else gf2Loop poly d p (if w.testBit p then w ^^^ (poly <<< (p - d)) else w)

/-- `gf2_rem(poly, bits_of(w, L))` (R131): the division starts at the explicit length of the dividend. -/
def gf2Rem (poly L w : Nat) : Nat := gf2Loop poly (bitlen poly - 1) L w

/-! ### The order in which error patterns are tried (R133, R136; 92_eei_decisions.md D28) -/

/-- The first pair `i < j` below `L`, `i` ascending and then `j` ascending, that passes. -/
def firstPair (L : Nat) (p : Nat → Nat → Bool) : Option (Nat × Nat) :=
  (List.range L).findSome? fun i =>
    ((List.range' (i + 1) (L - 1 - i)).find? fun j => p i j).map fun j => (i, j)

/-- The single-bit patterns of an `n`-bit word, positions ascending. -/
def singlePatterns (n : Nat) : List Nat := (List.range n).map fun p => 1 <<< p

/-- The two-bit patterns of an `n`-bit word, in the order of `firstPair`. -/
def pairPatterns (n : Nat) : List Nat :=
  (List.range n).flatMap fun i => (List.range' (i + 1) (n - 1 - i)).map fun j => (1 <<< i) ||| (1 <<< j)

/-! ### The syndrome table (R36, R133) -/

/-- The present entry of syndrome `x`, if there is one. -/
def synAt : List (Nat × SynEntry) → Nat → Option SynEntry
  | [], _ => none
  | (k, e) :: rest, x => if k = x then some e else synAt rest x

/-- An entry recorded only where the syndrome has none: the first pattern wins (R133, R134; 90_conflicts.md C1). -/
def recordSyn (x : Nat) (e : SynEntry) : List (Nat × SynEntry) → List (Nat × SynEntry)
  | [] => [(x, e)]
  | (k, u) :: rest =>
    if x < k then (x, e) :: (k, u) :: rest
    else if x = k then (k, u) :: rest
    else (k, u) :: recordSyn x e rest

/-- All patterns of one weight recorded, in order. -/
def recordAll (poly n weight : Nat) (patterns : List Nat) (tab : List (Nat × SynEntry)) : List (Nat × SynEntry) :=
  patterns.foldl
    (fun acc e => recordSyn (gf2Rem poly n e) { weight := BitVec.ofNat 2 weight, pattern := word32 e } acc) tab

/-- The table of `BCH.BUILD` (R133): `maxErrors = 3` builds the table of 2 (90_conflicts.md C6). -/
def buildSyn (poly n maxErrors : Nat) : List (Nat × SynEntry) :=
  let singles := recordAll poly n 1 (singlePatterns n) []
  if 2 ≤ maxErrors then recordAll poly n 2 (pairPatterns n) singles else singles

/-- Step 5 of `BCH.BUILD` (R133). -/
def badBchOperands (poly nbits maxErrors synbits : Nat) : Bool :=
  decide (poly < 2) || decide (nbits < 1) || decide (BCH_MAXN < nbits) || decide (maxErrors < 1) ||
    decide (3 < maxErrors) || decide (synbits < bitlen poly - 1) || decide (BCH_MAXSYN < synbits)

/-- `BCH.BUILD.c` (R133). -/
def execBchBuild (c : Nat) (s : State) : Result :=
  withUnbuilt s.bch (·.valid) c s fun h =>
    if badBchOperands s.arg0 s.arg1 s.arg2 s.arg3 then raise .configError s
    else
      complete { s with
        bch := s.bch.set c
          { valid := true
            poly := s.arg.r0
            n := s.arg1
            synbits := s.arg3
            maxErrors := s.arg2
            syn := buildSyn s.arg0 s.arg1 s.arg2 } h }

/-! ### Commands on words (R135 to R139) -/

/-- `BCH.DIV` (R135). -/
def execBchDiv (s : State) : Result :=
  if s.arg0 < 1 then raise .operandRange s
  else if lengthOutside 1 VLEN (s.lenOf .a) then raise .lengthError s
  else if someCellNotBit (s.vec .a) then raise .operandRange s
  else complete (s.setRes0 (gf2Rem s.arg0 (s.lenOf .a) (wordOf (s.vec .a))))

/-- The sentinel error count, -1 as 32 bits (R11, R136). -/
def sentinel : Nat := 0xFFFFFFFF

/-- The search of `BCH.REPAIR` (R136) for a word `w` of length `L`: the error count and the corrected word, or `none`
for `Uncorrectable`. -/
def bchSearch (poly L w : Nat) : Option (Nat × Nat) :=
  if gf2Rem poly L w = 0 then some (0, w)
  else
    match (List.range L).find? fun i => gf2Rem poly L (w ^^^ (1 <<< i)) == 0 with
    | some i => some (1, w ^^^ (1 <<< i))
    | none =>
      match firstPair L fun i j => gf2Rem poly L (w ^^^ (1 <<< i) ^^^ (1 <<< j)) == 0 with
      | some (i, j) => some (2, w ^^^ (1 <<< i) ^^^ (1 <<< j))
      | none => none

/-- What `BCH.REPAIR` and `BCH.LOOKUP` write (R136, R138): the corrected word and the count, or, also on
`Uncorrectable`, the word unchanged and the sentinel; the syndrome in `RES[1]` in every case. -/
def writeRepair (bits : List Nat) (syndrome : Nat) (found : Option (Nat × Nat)) (s : State) : Result :=
  match found with
  | some (count, w) => complete (((writeOut .r (bitsOf w bits.length) s).setRes0 count).setRes1 syndrome)
  | none => raise .uncorrectable (((writeOut .r bits s).setRes0 sentinel).setRes1 syndrome)

/-- `BCH.REPAIR` (R136). It uses no slot. -/
def execBchRepair (s : State) : Result :=
  if s.arg0 < 1 then raise .operandRange s
  else if lengthOutside 1 VLEN (s.lenOf .a) then raise .lengthError s
  else if someCellNotBit (s.vec .a) then raise .operandRange s
  else
    writeRepair (s.vec .a) (gf2Rem s.arg0 (s.lenOf .a) (wordOf (s.vec .a)))
      (bchSearch s.arg0 (s.lenOf .a) (wordOf (s.vec .a))) s

/-- The table's answer for a word `w` (R138); entry 0 is never consulted. -/
def bchTable (t : BchSlot) (w : Nat) : Option (Nat × Nat) :=
  let x := gf2Rem t.poly.toNat t.n w
  if x = 0 then some (0, w)
  else (synAt t.syn x).map fun e => (e.weight.toNat, w ^^^ e.pattern.toNat)

/-- `BCH.LOOKUP.c` (R138). -/
def execBchLookup (c : Nat) (s : State) : Result :=
  withBuilt s.bch (·.valid) c s fun t =>
    if s.lenOf .a ≠ t.n then raise .lengthError s
    else if someCellNotBit (s.vec .a) then raise .operandRange s
    else
      writeRepair (s.vec .a) (gf2Rem t.poly.toNat t.n (wordOf (s.vec .a))) (bchTable t (wordOf (s.vec .a))) s

/-- `BCH.SYNRD.c` (R139); an empty entry reads (0, 0, 0) (R36). -/
def execBchSynrd (c : Nat) (s : State) : Result :=
  withBuilt s.bch (·.valid) c s fun t =>
    if 2 ^ t.synbits ≤ s.arg0 then raise .operandRange s
    else
      match synAt t.syn s.arg0 with
      | none => complete (((s.setRes0 0).setRes1 0).setRes2 0)
      | some e => complete (((s.setRes0 1).setRes1 e.weight.toNat).setRes2 e.pattern.toNat)

end Sys2Proof.Machine
end

