-- ==== Sys2Proof/Machine/Gf.lean ====
section
/-! DEFINITION. The arithmetic of a field slot: table construction and the pure functions of 41_field_engine.md (R101 to
R107, R113), over integers. `t` is the slot, `m = FM`, `N = 2^m - 1`. -/

namespace Sys2Proof.Machine

open Sys2Proof.Config

/-- `N = 2^m - 1`, the number of non-zero elements (R100). -/
def FieldSlot.order (t : FieldSlot) : Nat := 2 ^ t.m - 1

/-- `EXP[i]`; an entry that no successful build has written is a free value (log 7). -/
def FieldSlot.expAt (t : FieldSlot) (i : Nat) : Nat := (t.exp.getD i (freeExp i)).toNat

/-- `LOG[x]`; `LOG[0]`, and an entry that no successful build has written, is a free value (R33; log 7, log 8). -/
def FieldSlot.logAt (t : FieldSlot) (x : Nat) : Nat :=
  match x with
  | 0 => (freeLog 0).toNat
  | k + 1 => (t.log.getD k (freeLog (k + 1))).toNat

/-! ### Table construction (R101, R102) -/

/-- The loop of `clmul_mod`, at most `fuel` times; `b` has at most `m` bits, so `m` times are enough (R101). -/
def clmulLoop (prim m : Nat) : Nat → Nat → Nat → Nat → Nat
  | 0, _, _, r => r
  | fuel + 1, a, b, r =>
    if b = 0 then r
    else
      let r' := if b.testBit 0 then r ^^^ a else r
      let a' := a <<< 1
      clmulLoop prim m fuel (if a'.testBit m then a' ^^^ prim else a') (b >>> 1) r'

/-- `clmul_mod(a, b, prim, m)`: the product of two elements as polynomials over GF(2), modulo `prim` (R101). -/
def clmulMod (a b prim m : Nat) : Nat := clmulLoop prim m m a b 0

/-- The first loop of the build (R102): the powers of `gen` from `x` on, `k` of them, and the value after the last.
`seen` has bit `x` set for every `LOG[x]` already written; `none` is the `ConfigError` of a value met again. -/
def powerLoop (prim gen m : Nat) : Nat → Nat → Nat → Option (List Nat × Nat)
  | 0, x, _ => some ([], x)
  | k + 1, x, seen =>
    if seen.testBit x then none
    else
      match powerLoop prim gen m k (clmulMod x gen prim m) (seen ||| (1 <<< x)) with
      | none => none
      | some (xs, last) => some (x :: xs, last)

/-- The tables of a build (R102): `EXP[0 .. 2N-1]` and `LOG[1 .. N]`, or `none` for the `ConfigError` of step 8. -/
def buildTables (prim gen m : Nat) : Option (List Symbol × List Symbol) :=
  match powerLoop prim gen m (2 ^ m - 1) 1 0 with
  | none => none
  | some (powers, last) =>
    if last = 1 then
      some ((powers ++ powers).map (BitVec.ofNat 8),
        (List.range (2 ^ m - 1)).map fun k => BitVec.ofNat 8 (powers.idxOf (k + 1)))
    else none

/-! ### Elements (R104 to R107) -/

/-- `gf_add` (R107). -/
def gfAdd (x y : Nat) : Nat := x ^^^ y

/-- `gf_mul` (R104). -/
def gfMul (t : FieldSlot) (x y : Nat) : Nat :=
  if x = 0 ∨ y = 0 then 0 else t.expAt (t.logAt x + t.logAt y)

/-- `gf_div` (R105); `none` is `DivisionByZero`, tested before `x`. -/
def gfDiv (t : FieldSlot) (x y : Nat) : Option Nat :=
  if y = 0 then none
  else if x = 0 then some 0
  else some (t.expAt (t.logAt x + t.order - t.logAt y))

/-- `gf_inv` (R106). -/
def gfInv (t : FieldSlot) (x : Nat) : Option Nat := gfDiv t 1 x

/-- `gf_pow`, for a power of any sign (R106). -/
def gfPow (t : FieldSlot) (x : Nat) (p : Int) : Nat :=
  if x = 0 then (if p = 0 then 1 else 0)
  else t.expAt (((t.logAt x : Int) * p) % (t.order : Int)).toNat

/-! ### Polynomials, most significant coefficient first (R113, R114) -/

/-- Two sequences of one length, added place by place. -/
def xorLists (p q : List Nat) : List Nat := List.zipWith (· ^^^ ·) p q

/-- `poly_add`: the shorter operand is aligned at the low-order end; leading zeros stay (R113, R114). -/
def polyAdd (p q : List Nat) : List Nat :=
  xorLists (List.replicate (q.length - p.length) 0 ++ p) (List.replicate (p.length - q.length) 0 ++ q)

/-- `poly_mul`, for sequences of length at least 1: place `k` is the sum of `p[i] * q[j]` over `i + j = k` (R113). -/
def polyMul (t : FieldSlot) : List Nat → List Nat → List Nat
  | [], q => List.replicate (q.length - 1) 0
  | a :: p, q => xorLists (q.map (fun b => gfMul t a b) ++ List.replicate p.length 0) (0 :: polyMul t p q)

/-- `poly_scale` (R113). -/
def polyScale (t : FieldSlot) (p : List Nat) (c : Nat) : List Nat := p.map fun a => gfMul t a c

/-- `poly_eval`, by Horner from the most significant coefficient (R113). -/
def polyEval (t : FieldSlot) (p : List Nat) (x : Nat) : Nat := p.foldl (fun y a => gfMul t y x ^^^ a) 0

end Sys2Proof.Machine
end

