-- ==== Sys2Proof/Machine/FieldEngine.lean ====
section
/-! DEFINITION. Unit 1, the Field Engine: the commands of 41_field_engine.md R102, R108 to R112, R115, R116. The checks
are those of each rule, in the order of 30_encoding.md R86. -/

namespace Sys2Proof.Machine

open Sys2Proof.Config

/-- Step 5 of `GF.BUILD` (R102): `m` first, since the other ranges depend on it (90_conflicts.md C9). -/
def badFieldOperands (prim gen m : Nat) : Bool :=
  if m < 1 || MAXM < m then true
  else decide (prim < 2 ^ m) || decide (2 ^ (m + 1) ≤ prim) || decide (gen < 1) || decide (2 ^ m - 1 < gen)

/-- `GF.BUILD.f` (R102). A build that fails in step 8 leaves the slot not valid with nothing listed in its tables
(R102, R244 c; log 7). -/
def execGfBuild (f : Nat) (s : State) : Result :=
  withUnbuilt s.fields (·.valid) f s fun h =>
    if badFieldOperands s.arg0 s.arg1 s.arg2 then raise .configError s
    else
      match buildTables s.arg0 s.arg1 s.arg2 with
      | none => raise .configError { s with fields := s.fields.set f { s.fields[f] with exp := [], log := [] } h }
      | some (exp, log) =>
        complete { s with
          fields := s.fields.set f
            { valid := true
              m := s.arg2
              prim := BitVec.ofNat 9 s.arg0
              gen := BitVec.ofNat 8 s.arg1
              exp := exp
              log := log } h }

/-- Step 5 of the two-operand commands: both operands are elements of the field (R108). -/
def notElements (t : FieldSlot) (x y : Nat) : Bool := decide (2 ^ t.m ≤ x) || decide (2 ^ t.m ≤ y)

/-- `GF.ADD.f` (R108). -/
def execGfAdd (f : Nat) (s : State) : Result :=
  withBuilt s.fields (·.valid) f s fun t =>
    if notElements t s.arg0 s.arg1 then raise .operandRange s
    else complete (s.setRes0 (gfAdd s.arg0 s.arg1))

/-- `GF.MUL.f` (R109). -/
def execGfMul (f : Nat) (s : State) : Result :=
  withBuilt s.fields (·.valid) f s fun t =>
    if notElements t s.arg0 s.arg1 then raise .operandRange s
    else complete (s.setRes0 (gfMul t s.arg0 s.arg1))

/-- `GF.DIV.f` (R110). -/
def execGfDiv (f : Nat) (s : State) : Result :=
  withBuilt s.fields (·.valid) f s fun t =>
    if notElements t s.arg0 s.arg1 then raise .operandRange s
    else
      match gfDiv t s.arg0 s.arg1 with
      | none => raise .divisionByZero s
      | some z => complete (s.setRes0 z)

/-- `GF.EXP.f` (R111). -/
def execGfExp (f : Nat) (s : State) : Result :=
  withBuilt s.fields (·.valid) f s fun t =>
    if 2 * t.order - 1 < s.arg0 then raise .operandRange s
    else complete (s.setRes0 (t.expAt s.arg0))

/-- `GF.LOG.f` (R112). -/
def execGfLog (f : Nat) (s : State) : Result :=
  withBuilt s.fields (·.valid) f s fun t =>
    if s.arg0 < 1 || 2 ^ t.m - 1 < s.arg0 then raise .operandRange s
    else complete (s.setRes0 (t.logAt s.arg0))

/-- `GF.PADD.f` (R115). -/
def execGfPadd (f : Nat) (s : State) : Result :=
  withBuilt s.fields (·.valid) f s fun t =>
    if lengthOutside 1 VLEN (s.lenOf .a) then raise .lengthError s
    else if lengthOutside 1 VLEN (s.lenOf .b) then raise .lengthError s
    else if someCellFrom (2 ^ t.m) (s.vec .a) then raise .operandRange s
    else if someCellFrom (2 ^ t.m) (s.vec .b) then raise .operandRange s
    else complete (writeOut .r (polyAdd (s.vec .a) (s.vec .b)) s)

/-- `GF.PMUL.f` (R116). -/
def execGfPmul (f : Nat) (s : State) : Result :=
  withBuilt s.fields (·.valid) f s fun t =>
    if lengthOutside 1 VLEN (s.lenOf .a) then raise .lengthError s
    else if lengthOutside 1 VLEN (s.lenOf .b) then raise .lengthError s
    else if VLEN < s.lenOf .a + s.lenOf .b - 1 then raise .lengthError s
    else if someCellFrom (2 ^ t.m) (s.vec .a) then raise .operandRange s
    else if someCellFrom (2 ^ t.m) (s.vec .b) then raise .operandRange s
    else complete (writeOut .r (polyMul t (s.vec .a) (s.vec .b)) s)

end Sys2Proof.Machine
end

