-- ==== Sys2Proof/Machine/Framer.lean ====
section
/-! DEFINITION. Unit 5, the Burst Framer: bit-order normalisation, de-interleaving, checksum (45_framer.md R206 to R212)
and the byte-reversal table (10_state.md R41). -/

namespace Sys2Proof.Machine

open Sys2Proof.Config

/-- `REV8[v]`: bit `j` is bit `7 - j` of `v` (R41). A read-only memory, present from reset, so it is no field of
`State` (log 14). -/
def rev8 (v : Symbol) : Symbol := BitVec.ofFnLE fun (j : Fin 8) => v.getLsbD (7 - j)

/-- One group of eight cells through the table, its first cell the most significant bit (R206). -/
def reverseGroup (bits : List Nat) : List Nat := bitsOf (rev8 (BitVec.ofNat 8 (wordOf bits))).toNat 8

/-- The first `groups` groups of eight cells, each reversed (R206). -/
def reverseGroups : Nat → List Nat → List Nat
  | 0, bits => bits
  | groups + 1, bits => reverseGroup (bits.take 8) ++ reverseGroups groups (bits.drop 8)

/-- `normalize(bits, swapped)` (R206). -/
def normalize (bits : List Nat) (swapped : Nat) : List Nat :=
  if swapped = 0 then bits else reverseGroups (bits.length / 8) bits

/-- `FR.NORM` (R206). -/
def execFrNorm (s : State) : Result :=
  if 1 < s.arg0 then raise .operandRange s
  else if VLEN < s.lenOf .a then raise .lengthError s
  else if s.arg0 = 1 ∧ s.lenOf .a % 8 ≠ 0 then raise .lengthError s
  else if someCellNotBit (s.vec .a) then raise .operandRange s
  else complete (writeOut .r (normalize (s.vec .a) s.arg0) s)

/-- `FR.REV8` (R208). -/
def execFrRev8 (s : State) : Result :=
  if 255 < s.arg0 then raise .operandRange s
  else complete (s.setRes0 (rev8 (BitVec.ofNat 8 s.arg0)).toNat)

/-- `slen(k) = ceil((len - k) / S)` for `k < len`, and 0 otherwise (R209). -/
def streamLen (len S k : Nat) : Nat := (len - k + S - 1) / S

/-- Sub-stream `k`: the elements `k, k + S, k + 2S, ...` while the index is below the length (R209). -/
def stream (v : List Nat) (S k : Nat) : List Nat :=
  (List.range (streamLen v.length S k)).map fun t => v.getD (k + t * S) 0

/-- The sub-streams of `deinterleave(v, S)` one after another (R209). -/
def deinterleave (v : List Nat) (S : Nat) : List Nat := (List.range S).flatMap fun k => stream v S k

/-- `FR.DEINT` (R209). Cells of any value are moved. -/
def execFrDeint (s : State) : Result :=
  if s.arg0 < 1 || VLEN < s.arg0 then raise .operandRange s
  else if VLEN < s.lenOf .a then raise .lengthError s
  else if s.lenOf .a < s.arg1 then raise .inputTooShort s
  else complete ((writeOut .r (deinterleave (s.vec .a) s.arg0) s).setRes0 (streamLen (s.lenOf .a) s.arg0 0))

/-- The carry folded back in until none remains (R211). Every pass makes a sum above 16 bits smaller, and as many
passes as the sum has bits are enough. -/
def foldCarry : Nat → Nat → Nat
  | 0, x => x
  | fuel + 1, x => if x ≤ 0xFFFF then x else foldCarry fuel ((x &&& 0xFFFF) + (x >>> 16))

/-- `csum16(words)` (R211). -/
def csum16 (words : List Nat) : Nat := foldCarry (bitlen words.sum) words.sum ^^^ 0xFFFF

/-- `FR.CSUM16` (R212). -/
def execFrCsum16 (s : State) : Result :=
  if VLEN < s.lenOf .a then raise .lengthError s
  else complete (s.setRes0 (csum16 (s.vec .a)))

end Sys2Proof.Machine
end

