-- ==== Sys2Proof/Machine/Puncture.lean ====
section
/-! DEFINITION. Unit 4, the Puncture Codec: convolutional encoder, puncture and depuncture (44_puncture.md R190 to
R196). -/

namespace Sys2Proof.Machine

open Sys2Proof.Config

/-! ### The convolutional encoder (R190, R191) -/

/-- The parity of the low `width` bits of `v` (R190). -/
def parityOf : Nat → Nat → Bool
  | 0, _ => false
  | width + 1, v => (v.testBit width) ^^ parityOf width v

/-- `conv_encode(bits, tapsA, tapsB, init, K)` (R190): the output bits and the register after the last one. -/
def convEncode (tapsA tapsB K : Nat) : Nat → List Nat → List Nat × Nat
  | reg, [] => ([], reg)
  | reg, b :: bits =>
    let next := ((reg <<< 1) ||| b) &&& (2 ^ K - 1)
    let rest := convEncode tapsA tapsB K next bits
    ((parityOf K (next &&& tapsA)).toNat :: (parityOf K (next &&& tapsB)).toNat :: rest.1, rest.2)

/-- Step 5 of `CV.ENC` (R191): `K` first, since the other ranges depend on it (90_conflicts.md C9). -/
def badEncoderOperands (tapsA tapsB init K : Nat) : Bool :=
  if K < 1 || CV_MAXK < K then true
  else decide (2 ^ K ≤ tapsA) || decide (2 ^ K ≤ tapsB) || decide (2 ^ K ≤ init)

/-- `CV.ENC` (R191). The register is an operand and a result, not state (R42). -/
def execCvEnc (s : State) : Result :=
  if badEncoderOperands s.arg0 s.arg1 s.arg2 s.arg3 then raise .operandRange s
  else if VLEN < 2 * s.lenOf .a then raise .lengthError s
  else if someCellNotBit (s.vec .a) then raise .operandRange s
  else
    complete ((writeOut .r (convEncode s.arg0 s.arg1 s.arg3 s.arg2 (s.vec .a)).1 s).setRes0
      (convEncode s.arg0 s.arg1 s.arg3 s.arg2 (s.vec .a)).2)

/-! ### Schedules (R192, R193) -/

/-- `SCHED[i mod PPERIOD]`: position `i` of a stream is kept (R40, R194). -/
def SchedSlot.keeps (t : SchedSlot) (i : Nat) : Bool := t.pattern.getLsbD (i % t.period)

/-- Step 5 of `PN.CFG` (R193). -/
def badSchedule (period pattern : Nat) : Bool :=
  if period < 1 || MAXPERIOD < period then true else decide (2 ^ period ≤ pattern)

/-- `PN.CFG.p` (R193). -/
def execPnCfg (p : Nat) (s : State) : Result :=
  withUnbuilt s.sched (·.valid) p s fun h =>
    if badSchedule s.arg0 s.arg1 then raise .configError s
    else complete { s with sched := s.sched.set p { valid := true, period := s.arg0, pattern := s.arg.r1 } h }

/-! ### Puncture and depuncture (R194 to R196) -/

/-- The cell value of the erased marker (00_scope.md R15). -/
def erased : Nat := 2

/-- `puncture(s, bits)` from position `i` on (R194). -/
def punctureFrom (t : SchedSlot) : Nat → List Nat → List Nat
  | _, [] => []
  | i, b :: bits => (if t.keeps i then b else erased) :: punctureFrom t (i + 1) bits

/-- `puncture(s, bits)` (R194). -/
def puncture (t : SchedSlot) (bits : List Nat) : List Nat := punctureFrom t 0 bits

/-- `PN.PUNC.p` (R194). -/
def execPnPunc (p : Nat) (s : State) : Result :=
  withBuilt s.sched (·.valid) p s fun t =>
    if VLEN < s.lenOf .a then raise .lengthError s
    else if someCellNotBit (s.vec .a) then raise .operandRange s
    else complete (writeOut .r (puncture t (s.vec .a)) s)

/-- `kept_count(s, L)` (R195). -/
def keptCount (t : SchedSlot) (L : Nat) : Nat := ((List.range L).filter t.keeps).length

/-- `depuncture(s, kept, L)`, `n` positions from position `i` on (R195). `PN.DEPUNC` has checked that `kept` holds as
many bits as positions are kept, so it never runs out (log 19). -/
def depunctureFrom (t : SchedSlot) : Nat → Nat → List Nat → List Nat
  | 0, _, _ => []
  | n + 1, i, kept =>
    if t.keeps i then kept.headD 0 :: depunctureFrom t n (i + 1) kept.tail
    else erased :: depunctureFrom t n (i + 1) kept

/-- `depuncture(s, kept, L)` (R195). -/
def depuncture (t : SchedSlot) (kept : List Nat) (L : Nat) : List Nat := depunctureFrom t L 0 kept

/-- `PN.DEPUNC.p` (R196). -/
def execPnDepunc (p : Nat) (s : State) : Result :=
  withBuilt s.sched (·.valid) p s fun t =>
    if VLEN < s.arg0 then raise .operandRange s
    else if s.lenOf .a ≠ keptCount t s.arg0 then raise .lengthError s
    else if someCellNotBit (s.vec .a) then raise .operandRange s
    else complete (writeOut .r (depuncture t (s.vec .a) s.arg0) s)

end Sys2Proof.Machine
end

