-- ==== Sys2Proof/Machine/ReedSolomon.lean ====
section
/-! DEFINITION. Unit 3, the Reed-Solomon codec: the pure functions and the commands of 43_reed_solomon.md R150 to R170.
`t` is the field slot the code refers to, `k` the code's slot. The loops are the spec's own (log 17). -/

namespace Sys2Proof.Machine

open Sys2Proof.Config

/-- `a`, the code's generator element (R150). -/
def RsSlot.a (k : RsSlot) : Nat := k.gen.toNat

/-- `GENPOLY[j]` (R38). -/
def RsSlot.genAt (k : RsSlot) (j : Nat) : Nat := (k.genpoly.getD j 0).toNat

/-- `Xof(p, n)`: the locator value of array index `p` in a word of length `n` (R150). -/
def locatorValue (t : FieldSlot) (k : RsSlot) (p n : Nat) : Nat :=
  gfPow t k.a ((n : Int) - 1 - (p : Int))

/-! ### Generator polynomial and encoding (R151, R154) -/

/-- `rs_genpoly(F, nsym, fcr, a)` (R151). -/
def rsGenpoly (t : FieldSlot) (nsym fcr a : Nat) : List Nat :=
  (List.range nsym).foldl (fun g i => polyMul t g [1, gfPow t a ((fcr + i : Nat) : Int)]) [1]

/-- The first places of `out` added to `xs`; the rest of `out` stays. -/
def xorPrefix : List Nat → List Nat → List Nat
  | o :: out, x :: xs => (o ^^^ x) :: xorPrefix out xs
  | out, [] => out
  | [], _ :: _ => []

/-- The division loop of `rs_encode` (R154): `steps` leading symbols are cleared one after another; what is left is the
remainder. `g` holds the coefficients 1 to `nsym` of the generator polynomial. -/
def rsDivide (t : FieldSlot) (g : List Nat) : Nat → List Nat → List Nat
  | 0, out => out
  | _ + 1, [] => []
  | steps + 1, c :: out =>
    rsDivide t g steps (if c = 0 then out else xorPrefix out (g.map fun x => gfMul t x c))

/-- The coefficients 1 to `nsym` of the generator polynomial. -/
def RsSlot.genTail (k : RsSlot) : List Nat := (List.range k.nsym).map fun j => k.genAt (j + 1)

/-- The parity of a message: the remainder of `msg(x) * x^nsym` by the generator polynomial (R154). -/
def rsParity (t : FieldSlot) (k : RsSlot) (msg : List Nat) : List Nat :=
  rsDivide t k.genTail msg.length (msg ++ List.replicate k.nsym 0)

/-- `rs_encode(r, msg)` (R154). -/
def rsEncode (t : FieldSlot) (k : RsSlot) (msg : List Nat) : List Nat := msg ++ rsParity t k msg

/-! ### Syndromes (R156) -/

/-- `rs_syndromes(r, recv)` (R156). -/
def rsSyndromes (t : FieldSlot) (k : RsSlot) (recv : List Nat) : List Nat :=
  (List.range k.nsym).map fun i => polyEval t recv (gfPow t k.a ((k.fcr + i : Nat) : Int))

/-- "All-zero syndrome vector" (R156). -/
def allZero (xs : List Nat) : Bool := xs.all fun x => x == 0

/-! ### The error locator (R159); polynomials low-order first -/

/-- The product of `lo` and `1 + X x`, low-order first (R159, R163). -/
def timesRoot (t : FieldSlot) (lo : List Nat) (x : Nat) : List Nat :=
  xorLists (lo ++ [0]) (0 :: lo.map fun c => gfMul t c x)

/-- The locator of a sequence of locator values, low-order first (R159, R163). -/
def locatorOf (t : FieldSlot) (xs : List Nat) : List Nat := xs.foldl (timesRoot t) [1]

/-- Two sequences added place by place, the shorter padded with zeros at its end (R159). -/
def xorPad (p q : List Nat) : List Nat :=
  xorLists (p ++ List.replicate (q.length - p.length) 0) (q ++ List.replicate (p.length - q.length) 0)

/-- What the Berlekamp-Massey loop carries: the locator, the auxiliary polynomial `B` and the length `L` (R159). -/
structure BmState where
  /-- The locator so far, low-order first. -/
  lo : List Nat
  /-- The auxiliary polynomial `B`, low-order first. -/
  aux : List Nat
  /-- `L`. -/
  len : Nat
deriving DecidableEq, Repr

/-- The discrepancy of step `k` (R159). -/
def discrepancy (t : FieldSlot) (syn : List Nat) (x : BmState) (k : Nat) : Nat :=
  (List.range x.lo.length).foldl
    (fun acc j => if j ≤ x.len ∧ j ≤ k then acc ^^^ gfMul t (x.lo.getD j 0) (syn.getD (k - j) 0) else acc) 0

/-- One pass of the loop of `rs_eloc`, for step `k` (R159). `delta` is not 0 where its inverse is taken (log 19). -/
def bmStep (t : FieldSlot) (syn : List Nat) (rho : Nat) (x : BmState) (k : Nat) : BmState :=
  let delta := discrepancy t syn x k
  let shifted := 0 :: x.aux
  if delta = 0 then { x with aux := shifted }
  else
    let next := xorPad x.lo (polyScale t shifted delta)
    if 2 * x.len ≤ k + rho then
      { lo := next, aux := polyScale t x.lo ((gfInv t delta).getD 0), len := k + 1 + rho - x.len }
    else { lo := next, aux := shifted, len := x.len }

/-- Leading zeros removed, the last element kept (R159, R161). -/
def stripLeading : List Nat → List Nat
  | [] => []
  | [x] => [x]
  | x :: y :: rest => if x = 0 then stripLeading (y :: rest) else x :: y :: rest

/-- `rs_eloc(r, S, eras, n)`, most significant first (R159). -/
def rsEloc (t : FieldSlot) (k : RsSlot) (syn eras : List Nat) (n : Nat) : List Nat :=
  let lo := locatorOf t (eras.map fun e => locatorValue t k e n)
  let rho := eras.length
  let final := (List.range' rho (k.nsym - rho)).foldl (bmStep t syn rho) { lo := lo, aux := lo, len := rho }
  stripLeading final.lo.reverse

/-! ### Error positions (R161) -/

/-- `rs_epos(r, loc, n)` (R161); `none` is `LocatorNotFound`. -/
def rsEpos (t : FieldSlot) (k : RsSlot) (loc : List Nat) (n : Nat) : Option (List Nat) :=
  let poly := stripLeading loc
  let pos := ((List.range n).filter fun (i : Nat) => polyEval t poly (gfPow t k.a (-(i : Int))) == 0).map fun i => n - 1 - i
  if pos.length = poly.length - 1 then some pos else none

/-! ### Errata correction (R163) -/

/-- The sum of `f j` over `j < n`, in the field. -/
def gfSum (n : Nat) (f : Nat → Nat) : Nat := (List.range n).foldl (fun acc j => acc ^^^ f j) 0

/-- The evaluator `S(x) * L(x) mod x^nsym`, low-order first (R163). -/
def evaluator (t : FieldSlot) (nsym : Nat) (syn lo : List Nat) : List Nat := (polyMul t syn lo).take nsym

/-- The magnitude at locator value `x` (R163); `none` is `DivisionByZero`. -/
def magnitude (t : FieldSlot) (fcr : Nat) (lo om : List Nat) (x : Nat) : Option Nat :=
  match gfInv t x with
  | none => none
  | some xi =>
    let num := gfSum om.length fun j => gfMul t (om.getD j 0) (gfPow t xi (j : Int))
    let den := gfSum lo.length fun j => if j % 2 = 1 then gfMul t (lo.getD j 0) (gfPow t xi ((j : Int) - 1)) else 0
    gfDiv t (gfMul t (gfPow t x (1 - (fcr : Int))) num) den

/-- The corrections applied one after another (R163). -/
def applyErrata (t : FieldSlot) (k : RsSlot) (lo om : List Nat) (n : Nat) : List Nat → List Nat → Option (List Nat)
  | [], out => some out
  | p :: rest, out =>
    match magnitude t k.fcr lo om (locatorValue t k p n) with
    | none => none
    | some y => applyErrata t k lo om n rest (out.modify p (· ^^^ y))

/-- `rs_corr(r, recv, S, pos)` (R163); `none` is `DivisionByZero`. -/
def rsCorr (t : FieldSlot) (k : RsSlot) (recv syn pos : List Nat) : Option (List Nat) :=
  let n := recv.length
  let lo := locatorOf t (pos.map fun p => locatorValue t k p n)
  applyErrata t k lo (evaluator t k.nsym syn lo) n pos recv

/-! ### The decoder (R165) -/

/-- What `rs_decode` returns: message, parity and errata count. -/
structure Decoded where
  /-- The corrected message. -/
  msg : List Nat
  /-- The corrected parity. -/
  par : List Nat
  /-- The number of errata positions found. -/
  count : Nat
deriving DecidableEq, Repr

/-- A word of the code cut into message and parity. -/
def splitWord (nsym : Nat) (recv : List Nat) (count : Nat) : Decoded :=
  { msg := recv.take (recv.length - nsym), par := recv.drop (recv.length - nsym), count := count }

/-- `rs_decode(r, recv, eras)` (R165), with the conditions in the order of R255. -/
def rsDecode (t : FieldSlot) (k : RsSlot) (recv eras : List Nat) : Except Cond Decoded :=
  let syn := rsSyndromes t k recv
  if allZero syn then .ok (splitWord k.nsym recv 0)
  else if k.nsym < eras.length then .error .uncorrectableMessage
  else
    match rsEpos t k (rsEloc t k syn eras recv.length) recv.length with
    | none => .error .locatorNotFound
    | some pos =>
      match rsCorr t k recv syn pos with
      | none => .error .divisionByZero
      | some cor =>
        if allZero (rsSyndromes t k cor) then .ok (splitWord k.nsym cor pos.length)
        else .error .uncorrectableMessage

/-! ### Commands -/

/-- Steps 3 and 4 of a Reed-Solomon command: the code's slot and the field slot it refers to (R86, R150). -/
def withCode (r : Nat) (s : State) (go : RsSlot → FieldSlot → Result) : Result :=
  withBuilt s.rs (·.valid) r s fun k => go k s.fields[k.field]

/-- Step 5 of `RS.CFG` (R152). -/
def badCodeOperands (t : FieldSlot) (nsym fcr gen : Nat) : Bool :=
  decide (nsym < 1) || decide (min MAXNSYM (t.order - 1) < nsym) || decide (t.order - 1 < fcr) ||
    decide (gen ≠ t.gen.toNat)

/-- `RS.CFG.r` (R152). -/
def execRsCfg (r : Nat) (s : State) : Result :=
  withUnbuilt s.rs (·.valid) r s fun h =>
    if hf : s.arg0 < NF then
      let t := s.fields[s.arg0]
      if !t.valid then raise .configError s
      else if badCodeOperands t s.arg1 s.arg2 s.arg3 then raise .configError s
      else
        complete { s with
          rs := s.rs.set r
            { valid := true
              field := ⟨s.arg0, hf⟩
              nsym := s.arg1
              fcr := s.arg2
              gen := BitVec.ofNat 8 s.arg3
              genpoly := (rsGenpoly t s.arg1 s.arg2 s.arg3).map (BitVec.ofNat 8) } h }
    else raise .configError s

/-- `RS.GPOLY.r` (R153). -/
def execRsGpoly (r : Nat) (s : State) : Result :=
  withCode r s fun k _ => complete (writeOut .r ((List.range (k.nsym + 1)).map k.genAt) s)

/-- `RS.ENC.r` (R155). -/
def execRsEnc (r : Nat) (s : State) : Result :=
  withCode r s fun k t =>
    if s.lenOf .a < 1 || t.order < s.lenOf .a + k.nsym then raise .lengthError s
    else if someCellFrom (2 ^ t.m) (s.vec .a) then raise .operandRange s
    else complete (writeOut .r (rsEncode t k (s.vec .a)) s)

/-- `RS.SYND.r` (R157). -/
def execRsSynd (r : Nat) (s : State) : Result :=
  withCode r s fun k t =>
    if lengthOutside 1 t.order (s.lenOf .a) then raise .lengthError s
    else if someCellFrom (2 ^ t.m) (s.vec .a) then raise .operandRange s
    else
      complete ((writeOut .r (rsSyndromes t k (s.vec .a)) s).setRes0 (allZero (rsSyndromes t k (s.vec .a))).toNat)

/-- `RS.ELOC.r` (R160). -/
def execRsEloc (r : Nat) (s : State) : Result :=
  withCode r s fun k t =>
    if lengthOutside 1 t.order s.arg0 then raise .operandRange s
    else if s.lenOf .a ≠ k.nsym then raise .lengthError s
    else if k.nsym < s.lenOf .b then raise .lengthError s
    else if someCellFrom (2 ^ t.m) (s.vec .a) then raise .operandRange s
    else if someCellFrom s.arg0 (s.vec .b) then raise .operandRange s
    else
      complete ((writeOut .r (rsEloc t k (s.vec .a) (s.vec .b) s.arg0) s).setRes0
        ((rsEloc t k (s.vec .a) (s.vec .b) s.arg0).length - 1))

/-- `RS.EPOS.r` (R162). -/
def execRsEpos (r : Nat) (s : State) : Result :=
  withCode r s fun k t =>
    if lengthOutside 1 t.order s.arg0 then raise .operandRange s
    else if lengthOutside 1 VLEN (s.lenOf .a) then raise .lengthError s
    else if someCellFrom (2 ^ t.m) (s.vec .a) then raise .operandRange s
    else
      match rsEpos t k (s.vec .a) s.arg0 with
      | none => raise .locatorNotFound s
      | some pos => complete ((writeOut .r pos s).setRes0 pos.length)

/-- `RS.CORR.r` (R164). -/
def execRsCorr (r : Nat) (s : State) : Result :=
  withCode r s fun k t =>
    if lengthOutside 1 t.order (s.lenOf .a) then raise .lengthError s
    else if s.lenOf .b ≠ k.nsym then raise .lengthError s
    else if k.nsym < s.lenOf .c then raise .lengthError s
    else if someCellFrom (2 ^ t.m) (s.vec .a) then raise .operandRange s
    else if someCellFrom (2 ^ t.m) (s.vec .b) then raise .operandRange s
    else if someCellFrom (s.lenOf .a) (s.vec .c) then raise .operandRange s
    else
      match rsCorr t k (s.vec .a) (s.vec .b) (s.vec .c) with
      | none => raise .divisionByZero s
      | some out => complete (writeOut .r out s)

/-- `RS.DEC.r` (R166): a failure writes nothing. -/
def execRsDec (r : Nat) (s : State) : Result :=
  withCode r s fun k t =>
    if lengthOutside (k.nsym + 1) t.order (s.lenOf .a) then raise .lengthError s
    else if VLEN < s.lenOf .b then raise .lengthError s
    else if someCellFrom (2 ^ t.m) (s.vec .a) then raise .operandRange s
    else if someCellFrom (s.lenOf .a) (s.vec .b) then raise .operandRange s
    else
      match rsDecode t k (s.vec .a) (s.vec .b) with
      | .error c => raise c s
      | .ok d => complete ((writeOut .q d.par (writeOut .r d.msg s)).setRes0 d.count)

/-- Step 5 of `RS.CHECK` and `RS.FIX`: `1 <= P` and `P + E = nsym` (R169). -/
def badFrameOperands (nsym p e : Nat) : Bool := decide (p < 1) || decide (p + e ≠ nsym)

/-- Step 6 of `RS.CHECK` and `RS.FIX`: `P + 1 <= ALEN` and `ALEN + E <= N` (R169). -/
def badFrameLength (order p e len : Nat) : Bool := decide (len < p + 1) || decide (order < len + e)

/-- The comparison of `RS.CHECK` (R169): the message part of the frame encoded again, and the first `p` parity symbols
held against the frame's. -/
def frameMatches (t : FieldSlot) (k : RsSlot) (p : Nat) (frame : List Nat) : Bool :=
  decide ((rsParity t k (frame.take (frame.length - p))).take p = frame.drop (frame.length - p))

/-- `RS.CHECK.r` (R169). -/
def execRsCheck (r : Nat) (s : State) : Result :=
  withCode r s fun k t =>
    if badFrameOperands k.nsym s.arg0 s.arg1 then raise .operandRange s
    else if badFrameLength t.order s.arg0 s.arg1 (s.lenOf .a) then raise .lengthError s
    else if someCellFrom (2 ^ t.m) (s.vec .a) then raise .operandRange s
    else complete (s.setRes0 (frameMatches t k s.arg0 (s.vec .a)).toNat)

/-- The decoding of `RS.FIX` (R170): `e` zeros appended to the frame and declared erased. -/
def rsFix (t : FieldSlot) (k : RsSlot) (e : Nat) (frame : List Nat) : Except Cond Decoded :=
  rsDecode t k (frame ++ List.replicate e 0) (List.range' frame.length e)

/-- `RS.FIX.r` (R170): a failure writes zeros to `RES[0]`, `RES[1]`, `RLEN`, `QLEN` (log 5 for the cells). -/
def execRsFix (r : Nat) (s : State) : Result :=
  withCode r s fun k t =>
    if badFrameOperands k.nsym s.arg0 s.arg1 then raise .operandRange s
    else if badFrameLength t.order s.arg0 s.arg1 (s.lenOf .a) then raise .lengthError s
    else if someCellFrom (2 ^ t.m) (s.vec .a) then raise .operandRange s
    else
      match rsFix t k s.arg1 (s.vec .a) with
      | .error c => raise c (((writeOut .q [] (writeOut .r [] s)).setRes0 0).setRes1 0)
      | .ok d =>
        complete (((writeOut .q (d.par.take s.arg0) (writeOut .r d.msg s)).setRes0 1).setRes1 d.count)

end Sys2Proof.Machine
end

