-- ==== Sys2Proof/Machine/System.lean ====
section
/-! DEFINITION. The housekeeping commands (46_system.md R226, R227). -/

namespace Sys2Proof.Machine

open Sys2Proof.Config

/-- `SYS.NOP` (R226): `COND` becomes `OK`, nothing else. -/
def execSysNop (s : State) : Result := complete s

/-- Step 5 of `BUF.COPY` (R227): the two buffers, the destination an input buffer, and the ranges of `offset` and
`count`. -/
def copyOperands (src dst offset count : Nat) : Option (BufId × BufId) :=
  match bufOfNumber src, bufOfNumber dst with
  | some x, some y => if y.isInput ∧ offset ≤ VLEN ∧ count ≤ VLEN then some (x, y) else none
  | _, _ => none

/-- `BUF.COPY` (R227): all reads come before any write. -/
def execBufCopy (s : State) : Result :=
  match copyOperands s.arg0 s.arg1 s.arg2 s.arg3 with
  | none => raise .operandRange s
  | some (src, dst) =>
    if VLEN < s.lenOf src then raise .lengthError s
    else if s.lenOf src < s.arg2 + s.arg3 then raise .lengthError s
    else complete (copyInto dst (slice s src s.arg2 s.arg3) s)

end Sys2Proof.Machine
end

