-- ==== Sys2Proof/Machine/Dispatch.lean ====
section
/-! DEFINITION. The dispatch: one arm per instruction, each one direct call of its meaning (30_encoding.md R83). The
state is the one after acceptance (10_state.md R27). -/

namespace Sys2Proof.Machine

def exec (i : Instr) (s : State) : Host.Outcome State Fault Refusal :=
  match i with
  | .sysNop => Sys2Proof.Machine.execSysNop s
  | .gfBuild f => Sys2Proof.Machine.execGfBuild f s
  | .gfAdd f => Sys2Proof.Machine.execGfAdd f s
  | .gfMul f => Sys2Proof.Machine.execGfMul f s
  | .gfDiv f => Sys2Proof.Machine.execGfDiv f s
  | .gfExp f => Sys2Proof.Machine.execGfExp f s
  | .gfLog f => Sys2Proof.Machine.execGfLog f s
  | .gfPadd f => Sys2Proof.Machine.execGfPadd f s
  | .gfPmul f => Sys2Proof.Machine.execGfPmul f s
  | .bchBuild c => Sys2Proof.Machine.execBchBuild c s
  | .bchDiv => Sys2Proof.Machine.execBchDiv s
  | .bchRepair => Sys2Proof.Machine.execBchRepair s
  | .bchLookup c => Sys2Proof.Machine.execBchLookup c s
  | .bchSynrd c => Sys2Proof.Machine.execBchSynrd c s
  | .rsCfg r => Sys2Proof.Machine.execRsCfg r s
  | .rsGpoly r => Sys2Proof.Machine.execRsGpoly r s
  | .rsEnc r => Sys2Proof.Machine.execRsEnc r s
  | .rsSynd r => Sys2Proof.Machine.execRsSynd r s
  | .rsEloc r => Sys2Proof.Machine.execRsEloc r s
  | .rsEpos r => Sys2Proof.Machine.execRsEpos r s
  | .rsCorr r => Sys2Proof.Machine.execRsCorr r s
  | .rsDec r => Sys2Proof.Machine.execRsDec r s
  | .rsCheck r => Sys2Proof.Machine.execRsCheck r s
  | .rsFix r => Sys2Proof.Machine.execRsFix r s
  | .cvEnc => Sys2Proof.Machine.execCvEnc s
  | .pnCfg p => Sys2Proof.Machine.execPnCfg p s
  | .pnPunc p => Sys2Proof.Machine.execPnPunc p s
  | .pnDepunc p => Sys2Proof.Machine.execPnDepunc p s
  | .frNorm => Sys2Proof.Machine.execFrNorm s
  | .frDeint => Sys2Proof.Machine.execFrDeint s
  | .frCsum16 => Sys2Proof.Machine.execFrCsum16 s
  | .frRev8 => Sys2Proof.Machine.execFrRev8 s
  | .bufCopy => Sys2Proof.Machine.execBufCopy s

end Sys2Proof.Machine
end

