-- ==== Sys2Proof/Machine/Bus.lean ====
section
/-! DEFINITION. The host's accesses: the register map and the buffer windows (10_state.md R23, 20_memory.md R60 to R66),
acceptance of a command word (R27, R85), soft reset (R281). -/

namespace Sys2Proof.Machine

open Sys2Proof.Config

/-- What a word index names (R23, R60). -/
inductive Target where
  /-- `ID`. -/
  | id
  /-- `CTRL`. -/
  | ctrl
  /-- `STATUS`. -/
  | status
  /-- `EVLOG`. -/
  | evlog
  /-- `CMDSEQ`. -/
  | cmdseq
  /-- `LASTCMD`. -/
  | lastcmd
  /-- `ARG[i]`. -/
  | arg (i : Fin 4)
  /-- `RES[i]`. -/
  | res (i : Fin 4)
  /-- The length register of a buffer. -/
  | len (bid : BufId)
  /-- `CMD`. -/
  | cmd
  /-- Cell `i` of a buffer. -/
  | cell (bid : BufId) (i : Nat)
deriving DecidableEq, Repr

/-- The register space, word indices 0x00 to 0x1F (R23); the reserved indices name nothing (U7). -/
def registerAt (idx : Nat) : Option Target :=
  match idx with
  | 0x00 => some .id
  | 0x01 => some .ctrl
  | 0x02 => some .status
  | 0x03 => some .evlog
  | 0x04 => some .cmdseq
  | 0x05 => some .lastcmd
  | 0x08 => some (.arg 0)
  | 0x09 => some (.arg 1)
  | 0x0A => some (.arg 2)
  | 0x0B => some (.arg 3)
  | 0x0C => some (.res 0)
  | 0x0D => some (.res 1)
  | 0x0E => some (.res 2)
  | 0x0F => some (.res 3)
  | 0x10 => some (.len .a)
  | 0x11 => some (.len .b)
  | 0x12 => some (.len .c)
  | 0x13 => some (.len .r)
  | 0x14 => some (.len .q)
  | 0x1F => some .cmd
  | _ => none

/-- The buffer space: five windows of `VLEN` words at 0x1000, 0x2000, ..., 0x5000 (R60). -/
def cellTarget (idx : Nat) : Option Target :=
  match idx / VLEN with
  | 1 => some (.cell .a (idx % VLEN))
  | 2 => some (.cell .b (idx % VLEN))
  | 3 => some (.cell .c (idx % VLEN))
  | 4 => some (.cell .r (idx % VLEN))
  | 5 => some (.cell .q (idx % VLEN))
  | _ => none

/-- What a word index names; `none` for an unmapped or reserved index (R60, R64). -/
def targetOf (idx : Nat) : Option Target :=
  if idx < 0x20 then registerAt idx else cellTarget idx

/-- The word a HostRead of a mapped index returns (R23, R24, R63); `CTRL` and `CMD` are write only and read 0. -/
def readTarget (s : State) : Target → Word
  | .id => idValue
  | .ctrl => 0
  | .status => s.status.word
  | .evlog => s.evlog
  | .cmdseq => s.cmdseq
  | .lastcmd => s.lastcmd
  | .arg i => s.arg.get i
  | .res i => s.res.get i
  | .len bid => (s.buf bid).len
  | .cmd => 0
  | .cell bid i => (readCell s bid i).setWidth 32

/-- An accepted command word: acceptance, then the command, or `IllegalCommand` where the word matches no row (R27,
R85). -/
def runCommand (w : Word) (s : State) : Result :=
  match decode w with
  | .ok i => exec i (accept w s)
  | .error _ => raise .illegalCommand (accept w s)

/-- A write to `CMD`: a halted core ignores it (R27). -/
def writeCmd (w : Word) (s : State) : Result :=
  if s.status.halted then .next s else runCommand w s

/-- A write to `CTRL`: bit 0 performs the soft reset (R281), the other bits do nothing. -/
def writeCtrl (v : Word) (s : State) : State := if v.getLsbD 0 then resetInput s else s

/-- A HostWrite to a mapped index (R23, R25, R63, R65). Read-only registers and the cells of `R`, `Q` ignore it. -/
def writeTarget (v : Word) (s : State) : Target → Result
  | .id => .next s
  | .ctrl => .next (writeCtrl v s)
  | .status => .next s
  | .evlog => .next { s with evlog := evlogClear v s.evlog }
  | .cmdseq => .next s
  | .lastcmd => .next s
  | .arg i => .next { s with arg := s.arg.set i v }
  | .res _ => .next s
  | .len bid => .next (if bid.isInput then setLen s bid v else s)
  | .cmd => writeCmd v s
  | .cell bid i => .next (if bid.isInput then writeCell s bid i (v.setWidth 16) else s)

/-- One host access performed (R61, R66). An unmapped index is refused (R64, log 11). -/
def perform (x : HostAccess) (s : State) : Result :=
  match x with
  | .reset => .next (resetInput s)
  | .read idx =>
    match targetOf idx with
    | some t => .next { s with busData := some (readTarget s t) }
    | none => .refused (.unmappedRead idx)
  | .write idx v =>
    match targetOf idx with
    | some t => writeTarget v s t
    | none => .refused (.unmappedWrite idx)

/-- The word index of `CMD` (R23). -/
def cmdIndex : Nat := 0x1F

/-- The access that starts the command word with the low `nbits` bits of `w` (R80). -/
def commandAccess (nbits w : Nat) : HostAccess := .write cmdIndex (word32 (w % 2 ^ nbits))

end Sys2Proof.Machine
end

