-- ==== Sys2Proof/Machine/Step.lean ====
section
/-! DEFINITION. One step: the oldest access the host has issued is performed, whole (20_memory.md R66; log 1). -/

namespace Sys2Proof.Machine

/-- The step. With nothing issued the core is idle and holds its state (60_exceptions.md R267). -/
def step (s : State) : Host.Outcome State Fault Refusal :=
  match s.pending with
  | [] => .next s
  | x :: rest => perform x { s with pending := rest }

/-- `s` with the command word issued as the host's next access: a write to `CMD` (log 1). -/
def State.withFetchWord (s : State) (nbits w : Nat) : State :=
  { s with pending := commandAccess nbits w :: s.pending }

end Sys2Proof.Machine
end

