-- ==== Sys2Proof/Machine/Boot.lean ====
section
/-! DEFINITION. Listings: how a program is written as host accesses (30_encoding.md R87, R88) and the boot sequence
(70_reset_and_hazards.md R286). The values the source leaves open are arguments (00_scope.md R10, log 21). -/

namespace Sys2Proof.Machine

/-- One line of a listing: the named operands are written to their `ARG` registers, then the command word to `CMD`; the
operands not named stay as they are (R87). -/
def listingLine (i : Instr) (operands : List (Fin 4 × Word)) : List HostAccess :=
  operands.map (fun o => .write (0x08 + o.1) o.2) ++ [.write cmdIndex (encode i)]

/-- The word index of cell 0 of a buffer (20_memory.md R60). -/
def windowBase (bid : BufId) : Nat := 0x1000 * (bid.number + 1)

/-- The word index of the length register of a buffer (10_state.md R23). -/
def lenIndex (bid : BufId) : Nat := 0x10 + bid.number

/-- `LOAD X, [v0, v1, ...]` (R88): every cell, then the length. -/
def loadInto (bid : BufId) (vs : List Word) : List HostAccess :=
  vs.mapIdx (fun i v => .write (windowBase bid + i) v) ++ [.write (lenIndex bid) (word32 vs.length)]

/-- `LOADBITS X, "0101..."` (R88): one cell per character, in reading order. -/
def loadBits (bid : BufId) (text : String) : List HostAccess :=
  loadInto bid (text.toList.map fun c => if c = '1' then 1 else 0)

/-- `READ name` (R88): a HostRead of the named register. -/
def readLine (idx : Nat) : List HostAccess := [.read idx]

/-- `RESET` (R88): the reset input is asserted. -/
def resetLine : List HostAccess := [.reset]

/-- The operands of one `BCH.BUILD` (R133). -/
structure BchConfig where
  /-- `generatorPoly`. -/
  poly : Word
  /-- `codewordBits`. -/
  nbits : Word
  /-- `maxErrors`. -/
  maxErrors : Word
  /-- `syndromeTableBits`. -/
  synbits : Word
deriving DecidableEq, Repr

/-- The operands of one `PN.CFG` (R193). -/
structure ScheduleConfig where
  /-- The period. -/
  period : Word
  /-- The pattern, bit 0 its first position. -/
  pattern : Word
deriving DecidableEq, Repr

/-- The OPEN parameters the boot sequence needs (R10 a, b, c). -/
structure OpenParameters where
  /-- `BCH_CFG[0].maxErrors`. -/
  firstMaxErrors : Word
  /-- `BCH_CFG[1..5]`. -/
  bchConfigs : Vector BchConfig 5
  /-- `PUNCT_SCHEDULES`. -/
  schedules : List ScheduleConfig
deriving DecidableEq, Repr

/-- `BCH.BUILD.c` of a configuration. -/
def bchLine (c : Nat) (x : BchConfig) : List HostAccess :=
  listingLine (.bchBuild c) [(0, x.poly), (1, x.nbits), (2, x.maxErrors), (3, x.synbits)]

/-- `PN.CFG.p` of a schedule. -/
def scheduleLine (p : Nat) (x : ScheduleConfig) : List HostAccess :=
  listingLine (.pnCfg p) [(0, x.period), (1, x.pattern)]

/-- The boot sequence (R286): the two fields, the two Reed-Solomon codes, the six BCH codes, the schedules. -/
def bootSequence (p : OpenParameters) : List HostAccess :=
  listingLine (.gfBuild 0) [(0, 0x11D), (1, 2), (2, 8)] ++
  listingLine (.gfBuild 1) [(0, 0x43), (1, 2), (2, 6)] ++
  listingLine (.rsCfg 0) [(0, 0), (1, 16), (2, 0), (3, 2)] ++
  listingLine (.rsCfg 1) [(0, 1), (1, 10), (2, 54), (3, 2)] ++
  bchLine 0 { poly := 29, nbits := 7, maxErrors := p.firstMaxErrors, synbits := 4 } ++
  (p.bchConfigs.toList.mapIdx fun k x => bchLine (k + 1) x).flatten ++
  (p.schedules.mapIdx scheduleLine).flatten

end Sys2Proof.Machine
end

