-- ==== Sys2Proof/Safety.lean ====
section
/-! DEFINITION. What counts as a sound state (the invariants of the spec's data model), which condition each command may
end with (60_exceptions.md R242), and the terms statements use to say what a command leaves alone. -/

namespace Sys2Proof.Machine

open Sys2Proof.Config

/-! ### Sound states -/

/-- A valid field slot holds legal parameters and the tables a build with them makes (R32, R34, R102). -/
abbrev FieldSlot.Sound (t : FieldSlot) : Prop :=
  t.valid = true →
    1 ≤ t.m ∧ t.m ≤ MAXM ∧ 2 ^ t.m ≤ t.prim.toNat ∧ t.prim.toNat < 2 ^ (t.m + 1) ∧
      1 ≤ t.gen.toNat ∧ t.gen.toNat ≤ 2 ^ t.m - 1 ∧
      buildTables t.prim.toNat t.gen.toNat t.m = some (t.exp, t.log)

/-- A valid BCH slot holds legal parameters and the table a build with them makes (R35, R37, R133). -/
abbrev BchSlot.Sound (t : BchSlot) : Prop :=
  t.valid = true →
    badBchOperands t.poly.toNat t.n t.maxErrors t.synbits = false ∧
      t.syn = buildSyn t.poly.toNat t.n t.maxErrors

/-- A valid Reed-Solomon slot refers to a valid field slot and holds legal parameters and the generator polynomial they
give (R38, R39, R152). -/
abbrev RsSlot.Sound (fields : Vector FieldSlot NF) (k : RsSlot) : Prop :=
  k.valid = true →
    fields[k.field].valid = true ∧
      badCodeOperands fields[k.field] k.nsym k.fcr k.gen.toNat = false ∧
      k.genpoly = (rsGenpoly fields[k.field] k.nsym k.fcr k.gen.toNat).map (BitVec.ofNat 8)

/-- A valid schedule slot holds a legal period and pattern (R40, R193). -/
abbrev SchedSlot.Sound (t : SchedSlot) : Prop :=
  t.valid = true → badSchedule t.period t.pattern.toNat = false

/-- An output buffer has specified content exactly below its length (R29, R30, R70). -/
abbrev Buffer.Filled (x : Buffer) : Prop :=
  x.len.toNat ≤ VLEN ∧ x.cells.map Prod.fst = List.range x.len.toNat

/-- The sound states: every state a run from reset reaches is one. -/
structure State.Sound (s : State) : Prop where
  /-- The memory is in its canonical form. -/
  memory : Memory.wf s
  /-- `R` holds content exactly below `RLEN`. -/
  outputR : s.r.Filled
  /-- `Q` holds content exactly below `QLEN`. -/
  outputQ : s.q.Filled
  /-- Field slots. -/
  fieldSlots : ∀ f : Fin NF, s.fields[f].Sound
  /-- BCH slots. -/
  bchSlots : ∀ c : Fin NBCH, s.bch[c].Sound
  /-- Reed-Solomon slots. -/
  rsSlots : ∀ r : Fin NRS, s.rs[r].Sound s.fields
  /-- Schedule slots. -/
  schedSlots : ∀ p : Fin NPS, s.sched[p].Sound
  /-- `EVLOG` bits 0 and 1 are never set, and no bit above the last condition's (R25, R240, R253). -/
  logBits : s.evlog.getLsbD 0 = false ∧ s.evlog.getLsbD 1 = false ∧ s.evlog.toNat < 2 ^ 12
  /-- The core is halted exactly while `EVLOG[7]` is set: both are set by `ConfigError` and cleared by reset alone (R25,
  R245). -/
  haltedLogged : s.status.halted = s.evlog.getLsbD 7
  /-- The core never ends a command with `ParseError` (R253). -/
  neverParse : s.status.cond ≠ .parseError
  /-- Before any command is accepted `COND` is `OK`, nothing is logged or counted (R24, R26). -/
  beforeFirst : s.status.done = false → s.status.cond = .ok ∧ s.evlog = 0 ∧ s.cmdseq = 0 ∧ s.lastcmd = 0

/-! ### Slots and conditions of each command -/

/-- The slots a command's selector chooses from: field, BCH, Reed-Solomon, schedule (the "sel" column of R83). -/
inductive SlotKind where
  /-- Field slots. -/
  | field
  /-- BCH slots. -/
  | bch
  /-- Reed-Solomon slots. -/
  | rs
  /-- Schedule slots. -/
  | sched
deriving DecidableEq, Repr

/-- How many slots of a kind there are (R9). -/
def SlotKind.count : SlotKind → Nat
  | .field => NF
  | .bch => NBCH
  | .rs => NRS
  | .sched => NPS

/-- The valid bit of slot `n` of a kind; there is none beyond the count. -/
def State.slotValid (s : State) (kind : SlotKind) (n : Nat) : Bool :=
  match kind with
  | .field => if h : n < NF then s.fields[n].valid else false
  | .bch => if h : n < NBCH then s.bch[n].valid else false
  | .rs => if h : n < NRS then s.rs[n].valid else false
  | .sched => if h : n < NPS then s.sched[n].valid else false

end Sys2Proof.Machine

namespace Sys2Proof

open Sys2Proof.Machine

/-- The kind of slot of a command with a selector (R83). -/
def Instr.slotKind : Instr → Option SlotKind
  | .sysNop => none
  | .gfBuild _ => some .field
  | .gfAdd _ => some .field
  | .gfMul _ => some .field
  | .gfDiv _ => some .field
  | .gfExp _ => some .field
  | .gfLog _ => some .field
  | .gfPadd _ => some .field
  | .gfPmul _ => some .field
  | .bchBuild _ => some .bch
  | .bchDiv => none
  | .bchRepair => none
  | .bchLookup _ => some .bch
  | .bchSynrd _ => some .bch
  | .rsCfg _ => some .rs
  | .rsGpoly _ => some .rs
  | .rsEnc _ => some .rs
  | .rsSynd _ => some .rs
  | .rsEloc _ => some .rs
  | .rsEpos _ => some .rs
  | .rsCorr _ => some .rs
  | .rsDec _ => some .rs
  | .rsCheck _ => some .rs
  | .rsFix _ => some .rs
  | .cvEnc => none
  | .pnCfg _ => some .sched
  | .pnPunc _ => some .sched
  | .pnDepunc _ => some .sched
  | .frNorm => none
  | .frDeint => none
  | .frCsum16 => none
  | .frRev8 => none
  | .bufCopy => none

/-- The four build commands (R86 step 4). -/
def Instr.isBuild : Instr → Bool
  | .sysNop => false
  | .gfBuild _ => true
  | .gfAdd _ => false
  | .gfMul _ => false
  | .gfDiv _ => false
  | .gfExp _ => false
  | .gfLog _ => false
  | .gfPadd _ => false
  | .gfPmul _ => false
  | .bchBuild _ => true
  | .bchDiv => false
  | .bchRepair => false
  | .bchLookup _ => false
  | .bchSynrd _ => false
  | .rsCfg _ => true
  | .rsGpoly _ => false
  | .rsEnc _ => false
  | .rsSynd _ => false
  | .rsEloc _ => false
  | .rsEpos _ => false
  | .rsCorr _ => false
  | .rsDec _ => false
  | .rsCheck _ => false
  | .rsFix _ => false
  | .cvEnc => false
  | .pnCfg _ => true
  | .pnPunc _ => false
  | .pnDepunc _ => false
  | .frNorm => false
  | .frDeint => false
  | .frCsum16 => false
  | .frRev8 => false
  | .bufCopy => false

/-- The conditions other than `OK` that R242 marks in a command's row. -/
def Instr.conditions : Instr → List Cond
  | .sysNop => []
  | .gfBuild _ => [.operandRange, .configError]
  | .gfAdd _ => [.operandRange, .tableNotBuilt]
  | .gfMul _ => [.operandRange, .tableNotBuilt]
  | .gfDiv _ => [.operandRange, .tableNotBuilt, .divisionByZero]
  | .gfExp _ => [.operandRange, .tableNotBuilt]
  | .gfLog _ => [.operandRange, .tableNotBuilt]
  | .gfPadd _ => [.operandRange, .lengthError, .tableNotBuilt]
  | .gfPmul _ => [.operandRange, .lengthError, .tableNotBuilt]
  | .bchBuild _ => [.operandRange, .configError]
  | .bchDiv => [.operandRange, .lengthError]
  | .bchRepair => [.operandRange, .lengthError, .uncorrectable]
  | .bchLookup _ => [.operandRange, .lengthError, .tableNotBuilt, .uncorrectable]
  | .bchSynrd _ => [.operandRange, .tableNotBuilt]
  | .rsCfg _ => [.operandRange, .configError]
  | .rsGpoly _ => [.operandRange, .tableNotBuilt]
  | .rsEnc _ => [.operandRange, .lengthError, .tableNotBuilt]
  | .rsSynd _ => [.operandRange, .lengthError, .tableNotBuilt]
  | .rsEloc _ => [.operandRange, .lengthError, .tableNotBuilt]
  | .rsEpos _ => [.operandRange, .lengthError, .tableNotBuilt, .locatorNotFound]
  | .rsCorr _ => [.operandRange, .lengthError, .tableNotBuilt, .divisionByZero]
  | .rsDec _ => [.operandRange, .lengthError, .tableNotBuilt, .locatorNotFound, .uncorrectableMessage]
  | .rsCheck _ => [.operandRange, .lengthError, .tableNotBuilt]
  | .rsFix _ => [.operandRange, .lengthError, .tableNotBuilt, .locatorNotFound, .uncorrectableMessage]
  | .cvEnc => [.operandRange, .lengthError]
  | .pnCfg _ => [.operandRange, .configError]
  | .pnPunc _ => [.operandRange, .lengthError, .tableNotBuilt]
  | .pnDepunc _ => [.operandRange, .lengthError, .tableNotBuilt]
  | .frNorm => [.operandRange, .lengthError]
  | .frDeint => [.operandRange, .lengthError, .inputTooShort]
  | .frCsum16 => [.lengthError]
  | .frRev8 => [.operandRange]
  | .bufCopy => [.operandRange, .lengthError]

end Sys2Proof

namespace Sys2Proof.Machine

open Sys2Proof.Config

/-! ### Reset -/

/-- The reset state as R44 and R280 list it. The content of every buffer cell is unspecified: none is listed. -/
structure InResetState (s : State) : Prop where
  /-- `STATUS = 0`. -/
  status : s.status.word = 0
  /-- `COND = OK`, `DONE = 0`, `HALTED = 0`. -/
  statusFields : s.status = { cond := .ok, done := false, halted := false }
  /-- `EVLOG = 0`. -/
  evlog : s.evlog = 0
  /-- `CMDSEQ = 0`. -/
  cmdseq : s.cmdseq = 0
  /-- `LASTCMD = 0`. -/
  lastcmd : s.lastcmd = 0
  /-- `ARG[0..3] = 0`. -/
  arg : s.arg = Quad.zero
  /-- `RES[0..3] = 0`. -/
  res : s.res = Quad.zero
  /-- `ALEN = BLEN = CLEN = RLEN = QLEN = 0`. -/
  lengths : ∀ bid, (s.buf bid).len = 0
  /-- Every buffer cell is unspecified. -/
  cells : ∀ bid, (s.buf bid).cells = []
  /-- Every `FVALID`, `BVALID`, `RVALID`, `PVALID` is 0. -/
  slots : ∀ kind n, s.slotValid kind n = false

/-! ### What a command leaves alone -/

/-- What no command changes (R21, R27): `ARG`, `CMDSEQ`, `LASTCMD`, `DONE`, and the host's side of the bus. -/
structure KeepsControl (s t : State) : Prop where
  /-- `ARG[0..3]`. -/
  arg : t.arg = s.arg
  /-- `CMDSEQ`. -/
  cmdseq : t.cmdseq = s.cmdseq
  /-- `LASTCMD`. -/
  lastcmd : t.lastcmd = s.lastcmd
  /-- `STATUS.DONE`. -/
  done : t.status.done = s.status.done
  /-- The accesses still to be performed. -/
  pending : t.pending = s.pending
  /-- What the last HostRead returned. -/
  busData : t.busData = s.busData

/-- The command ended with `OK`: nothing is logged, nothing halts (R243). -/
structure EndsOk (s t : State) : Prop where
  /-- `COND`. -/
  cond : t.status.cond = .ok
  /-- `HALTED` stays. -/
  halted : t.status.halted = s.status.halted
  /-- `EVLOG` stays. -/
  evlog : t.evlog = s.evlog

/-- No slot changes. -/
structure KeepsTables (s t : State) : Prop where
  /-- Field slots. -/
  fields : t.fields = s.fields
  /-- BCH slots. -/
  bch : t.bch = s.bch
  /-- Reed-Solomon slots. -/
  rs : t.rs = s.rs
  /-- Schedule slots. -/
  sched : t.sched = s.sched

/-- One buffer is unchanged: its length register and every cell, read through `readCell`. A cell of unspecified content
reads the same until its content is lost again (log 4). -/
structure KeepsBuffer (s t : State) (bid : BufId) : Prop where
  /-- The length register. -/
  len : t.lenOf bid = s.lenOf bid
  /-- Every cell. -/
  cells : ∀ i, readCell t bid i = readCell s bid i

/-- Every buffer is unchanged. -/
def KeepsMemory (s t : State) : Prop := ∀ bid, KeepsBuffer s t bid

/-- Buffer `bid` holds `xs` from cell 0 on, and its length register says so. -/
structure HoldsVector (t : State) (bid : BufId) (xs : List Nat) : Prop where
  /-- The length register. -/
  len : t.lenOf bid = xs.length
  /-- The cells below it. -/
  cells : ∀ i (h : i < xs.length), (readCell t bid i).toNat = xs[i]

/-- `RES[1..3]` stay. -/
structure KeepsRes123 (s t : State) : Prop where
  /-- `RES[1]`. -/
  r1 : t.res.r1 = s.res.r1
  /-- `RES[2]`. -/
  r2 : t.res.r2 = s.res.r2
  /-- `RES[3]`. -/
  r3 : t.res.r3 = s.res.r3

/-- `RES[2..3]` stay. -/
structure KeepsRes23 (s t : State) : Prop where
  /-- `RES[2]`. -/
  r2 : t.res.r2 = s.res.r2
  /-- `RES[3]`. -/
  r3 : t.res.r3 = s.res.r3

/-- The command ended with condition `k` (R243). -/
structure EndsWith (k : Cond) (s t : State) : Prop where
  /-- `COND`. -/
  cond : t.status.cond = k
  /-- `HALTED` is set by the fatal condition and stays otherwise. -/
  halted : t.status.halted = (s.status.halted || decide (k = .configError))
  /-- `EVLOG[code(k)]` is set for a condition other than `OK`, every other bit stays. -/
  evlog : ∀ n, n < 32 → t.evlog.getLsbD n = (s.evlog.getLsbD n || decide (k ≠ .ok ∧ n = k.code))

/-- The command ended with `OK`, wrote `v` to `RES[0]` and did nothing else. -/
structure OnlyRes0 (s t : State) (v : Nat) : Prop where
  /-- How it ended. -/
  ends : EndsOk s t
  /-- `RES[0]`. -/
  res0 : t.res.r0.toNat = v
  /-- The other scalar results. -/
  others : KeepsRes123 s t
  /-- Every buffer. -/
  memory : KeepsMemory s t
  /-- Every slot. -/
  tables : KeepsTables s t
  /-- The registers no command writes. -/
  control : KeepsControl s t

/-- Of all buffers, slots and control registers, only `R` with `RLEN` is written, with `xs`. -/
structure WritesR (s t : State) (xs : List Nat) : Prop where
  /-- `R`, `RLEN`. -/
  output : HoldsVector t .r xs
  /-- Every other buffer. -/
  others : ∀ bid, bid ≠ .r → KeepsBuffer s t bid
  /-- Every slot. -/
  tables : KeepsTables s t
  /-- The registers no command writes. -/
  control : KeepsControl s t

/-- Of all buffers, slots and control registers, only `R` with `RLEN` and `Q` with `QLEN` are written, with `xs` and
`ys`. -/
structure WritesRQ (s t : State) (xs ys : List Nat) : Prop where
  /-- `R`, `RLEN`. -/
  outputR : HoldsVector t .r xs
  /-- `Q`, `QLEN`. -/
  outputQ : HoldsVector t .q ys
  /-- Every input buffer. -/
  others : ∀ bid, bid.isInput = true → KeepsBuffer s t bid
  /-- Every slot. -/
  tables : KeepsTables s t
  /-- The registers no command writes. -/
  control : KeepsControl s t

/-! ### Terms of the mathematics -/

/-- The product of two polynomials over GF(2) given as masks (00_scope.md R11: bit `k` is the coefficient of `x^k`). -/
def carryless (a b : Nat) : Nat :=
  (List.range (bitlen a)).foldl (fun acc k => if a.testBit k then acc ^^^ (b <<< k) else acc) 0

/-- The powers `1, gen, gen^2, ...` of the build loop (41_field_engine.md R102). -/
def powerOf (prim gen m : Nat) (i : Nat) : Nat := (fun x => clmulMod x gen prim m)^[i] 1

/-- The powers visit `N = 2^m - 1` different values and return to 1: the consistency test of R102. -/
def PowersCycle (prim gen m : Nat) : Prop :=
  (∀ i j, i < j → j < 2 ^ m - 1 → powerOf prim gen m i ≠ powerOf prim gen m j) ∧ powerOf prim gen m (2 ^ m - 1) = 1

/-- Where sub-stream `k` starts in the output of `FR.DEINT`: after the sub-streams before it (45_framer.md R209). -/
def streamStart (len S k : Nat) : Nat := ((List.range k).map fun j => streamLen len S j).sum

/-- The access that asserts reset: the reset input, or a write to `CTRL` with bit 0 set (R280, R281). -/
def HostAccess.resets : HostAccess → Bool
  | .read _ => false
  | .write idx v => idx == 0x01 && v.getLsbD 0
  | .reset => true

/-- The word indices that are mapped (10_state.md R23, 20_memory.md R60). -/
def mappedIndex (idx : Nat) : Bool :=
  decide (idx ≤ 0x05) || (decide (0x08 ≤ idx) && decide (idx ≤ 0x14)) || idx == 0x1F ||
    (decide (0x1000 ≤ idx) && decide (idx ≤ 0x5FFF))

end Sys2Proof.Machine
end

