-- ==== Sys2Proof/Certificates/Slice0/Obligations.lean ====
section
/-! DEFINITION. The statements for the provers. Each docstring names the rules of spec/ it comes from. -/

open Sys2Proof Sys2Proof.Machine Sys2Proof.Config

/-! ### The machine as a whole -/

/-- Every step keeps a sound state sound: the memory's canonical form, the slots as their builds left them, the status
and the log consistent (R24, R25, R32 to R40, R253). The canonical form of the memory is the model's choice (log 3). -/
def Obligations.StepKeepsSound : Prop :=
  ∀ s t : State, s.Sound → step s = .next t → t.Sound

/-- The reset state is sound. -/
def Obligations.ResetIsSound : Prop := State.reset.Sound

/-- A step whose oldest access writes `CMD`: a halted core ignores it; otherwise `LASTCMD`, `CMDSEQ` and `DONE` are
written and the step is the decoded command at that state, or, for a word of no row, `IllegalCommand`: `COND` 8, bit 8
of `EVLOG`, and nothing else (R27, R85). The queue of issued accesses and `withFetchWord`, which issues such a write, are
the model's choice (log 1). -/
def Obligations.StepRunsDecodedCommand : Prop :=
  (∀ (s : State) (rest : List HostAccess) (w : Word), s.pending = .write 0x1F w :: rest →
    (s.status.halted = true → step s = .next { s with pending := rest }) ∧
    (s.status.halted = false →
      let a : State :=
        { s with
          pending := rest
          lastcmd := w
          cmdseq := BitVec.ofNat 32 ((s.cmdseq.toNat + 1) % 2 ^ 32)
          status := { cond := s.status.cond, done := true, halted := false } }
      (∀ i, decode w = .ok i → step s = exec i a) ∧
        (∀ e, decode w = .error e →
          ∃ t, step s = .next t ∧ EndsWith .illegalCommand a t ∧ t.status.word = 0x108 ∧
            t.evlog = s.evlog ||| 0x100 ∧ { t with status := a.status, evlog := a.evlog } = a))) ∧
  ∀ (s : State) (nbits v : Nat),
    s.withFetchWord nbits v = { s with pending := .write 0x1F (BitVec.ofNat 32 (v % 2 ^ nbits)) :: s.pending }

/-- Decoding and encoding agree on every word and every well-formed instruction (R80, R83, R84). -/
def Obligations.DecodeEncodeAgree : Prop :=
  ∀ (w : Word) (i : Instr), decode w = .ok i ↔ i.wellFormed = true ∧ encode i = w

/-- Words written out from R80 and R83, one of each format and of each unit, and three illegal ones (R85). -/
def Obligations.SomeWordsDecode : Prop :=
  decode 0x00000000 = .ok .sysNop ∧ decode 0x00000003 = .ok (.gfMul 0) ∧ decode 0x00000101 = .ok (.gfBuild 1) ∧
    decode 0x00000513 = .ok (.bchLookup 5) ∧ decode 0x00000327 = .ok (.rsDec 3) ∧
    decode 0x00000233 = .ok (.pnDepunc 2) ∧ decode 0x00000041 = .ok .frDeint ∧ decode 0x00000050 = .ok .bufCopy ∧
    decode 0x00000007 = .error (.unassignedOpcode 7) ∧ decode 0x00001000 = .error .zeroFieldSet ∧
    decode 0x00000111 = .error (.selectorSet 0x11)

/-- The row a word selects is the one with `(w and mask) = match`; no other row matches it; a word is illegal exactly
when none does (R84, R85). -/
def Obligations.DecodeFollowsTheTable : Prop :=
  ∀ w : Word,
    (∀ i, decode w = .ok i → w &&& i.rowMask = i.rowMatch ∧
      ∀ j : Instr, w &&& j.rowMask = j.rowMatch → j.rowMatch = i.rowMatch) ∧
    ((∃ e, decode w = .error e) ↔ ∀ j : Instr, w &&& j.rowMask ≠ j.rowMatch)

/-- In every state every command has a next state: it ends with exactly one condition, recorded as R243 says, and writes
none of the registers no command writes (R21, R27, R240, R243). The condition is never `ParseError` (R253). -/
def Obligations.NoCommandStops : Prop :=
  ∀ (s : State) (i : Instr), ∃ t, exec i s = .next t ∧ EndsWith t.status.cond s t ∧ KeepsControl s t ∧
    t.status.cond ≠ .parseError

/-- In a sound state a command ends with `OK` or a condition that R242 marks in its row; so `RS.DEC` and `RS.FIX` never
divide by zero (R165, R247). -/
def Obligations.EveryCommandEndsAsListed : Prop :=
  ∀ (s t : State) (i : Instr), s.Sound → exec i s = .next t → t.status.cond = .ok ∨ t.status.cond ∈ i.conditions

/-- A command that ends with another condition than `OK` changes nothing but `COND`, `EVLOG` and `HALTED`, with the
three stated exceptions, each with all it changes (R22, R30, R244). -/
def Obligations.ConditionsArePrecise : Prop :=
  ∀ (s t : State) (i : Instr), s.Sound → exec i s = .next t → t.status.cond ≠ .ok →
    t = endWith t.status.cond s ∨
    ((i = .bchRepair ∨ ∃ c, i = .bchLookup c) ∧ t.status.cond = .uncorrectable ∧
      EndsWith .uncorrectable s t ∧ WritesR s t (s.vec .a) ∧ t.res.r0 = 0xFFFFFFFF ∧ KeepsRes23 s t) ∨
    ((∃ r, i = .rsFix r) ∧ (t.status.cond = .locatorNotFound ∨ t.status.cond = .uncorrectableMessage) ∧
      EndsWith t.status.cond s t ∧ WritesRQ s t [] [] ∧ t.res.r0 = 0 ∧ t.res.r1 = 0 ∧ KeepsRes23 s t) ∨
    (∃ f, i = .gfBuild f ∧ t.status.cond = .configError ∧ EndsWith .configError s t ∧ KeepsControl s t ∧
      t.res = s.res ∧ KeepsMemory s t ∧ t.bch = s.bch ∧ t.rs = s.rs ∧ t.sched = s.sched ∧
      t.slotValid .field f = false ∧ ∀ g (hg : g < NF), g ≠ f → t.fields[g] = s.fields[g])

/-- No command but `BUF.COPY` modifies an input buffer (R31). -/
def Obligations.OnlyBufCopyWritesInputs : Prop :=
  ∀ (s t : State) (i : Instr) (bid : BufId), exec i s = .next t → i ≠ .bufCopy → bid.isInput = true →
    KeepsBuffer s t bid

/-- Only reset makes a valid slot invalid, and a slot becomes valid only by a build command of its kind and number that
ends with `OK` (R282); meanwhile a valid slot's contents stay (R34, R37, R39, R40). -/
def Obligations.SlotLifecycle : Prop :=
  ∀ (s t : State) (x : HostAccess) (rest : List HostAccess), s.pending = x :: rest → step s = .next t →
    (∀ kind n, s.slotValid kind n = true → t.slotValid kind n = false → x.resets = true) ∧
    (∀ kind n, s.slotValid kind n = false → t.slotValid kind n = true →
      ∃ w i, x = .write 0x1F w ∧ decode w = .ok i ∧ i.isBuild = true ∧ i.slotKind = some kind ∧
        i.selector = some n ∧ t.status.cond = .ok) ∧
    (x.resets = false →
      (∀ f (hf : f < NF), s.fields[f].valid = true → t.fields[f] = s.fields[f]) ∧
      (∀ c (hc : c < NBCH), s.bch[c].valid = true → t.bch[c] = s.bch[c]) ∧
      (∀ r (hr : r < NRS), s.rs[r].valid = true → t.rs[r] = s.rs[r]) ∧
      (∀ p (hp : p < NPS), s.sched[p].valid = true → t.sched[p] = s.sched[p]))

/-- After the reset input every register and valid bit is as R44 lists it, whatever the state before; the state right
after power-up is such a state too (R44, R280). That an unspecified cell is one without a listing is the model's choice
(log 3). -/
def Obligations.ResetEntersResetState : Prop :=
  InResetState State.reset ∧
  ∀ (s : State) (rest : List HostAccess), s.pending = .reset :: rest →
    ∃ t, step s = .next t ∧ InResetState t ∧ t.pending = rest ∧ readTarget t .id = 0x47464543

/-- The soft reset has exactly the effect of the reset input; a write to `CTRL` with bit 0 clear has none; nothing else
leaves the halted state (R281). -/
def Obligations.SoftResetIsReset : Prop :=
  (∀ (s : State) (rest : List HostAccess) (v : Word), s.pending = .write 0x01 v :: rest →
    (v.getLsbD 0 = true →
      step s = step { s with pending := .reset :: rest } ∧
      ∃ t, step s = .next t ∧ t.status.halted = false ∧ t.evlog.getLsbD 7 = false ∧
        ∀ kind n, t.slotValid kind n = false) ∧
    (v.getLsbD 0 = false → step s = .next { s with pending := rest })) ∧
  ∀ (s t : State) (x : HostAccess) (rest : List HostAccess), s.pending = x :: rest → step s = .next t →
    s.status.halted = true → t.status.halted = false → x.resets = true

/-! ### The host's accesses -/

/-- What a HostRead of each mapped index returns, `STATUS` with the code of the condition as the table numbers it; no
read has a side effect (R23, R24, R60, R63, R65, R240). -/
def Obligations.HostReadsReturn : Prop :=
  ∀ (s : State) (rest : List HostAccess) (idx : Nat) (v : Word), s.pending = .read idx :: rest →
    ((idx = 0x00 ∧ v = 0x47464543) ∨ (idx = 0x01 ∧ v = 0) ∨
      (idx = 0x02 ∧ v =
        (match s.status.cond with
          | .ok => 0
          | .parseError => 1
          | .inputTooShort => 2
          | .divisionByZero => 3
          | .uncorrectable => 4
          | .locatorNotFound => 5
          | .uncorrectableMessage => 6
          | .configError => 7
          | .illegalCommand => 8
          | .operandRange => 9
          | .lengthError => 10
          | .tableNotBuilt => 11 : Word) |||
        (if s.status.done then 0x100 else 0) ||| (if s.status.halted then 0x200 else 0)) ∨
      (idx = 0x03 ∧ v = s.evlog) ∨ (idx = 0x04 ∧ v = s.cmdseq) ∨ (idx = 0x05 ∧ v = s.lastcmd) ∨
      (idx = 0x08 ∧ v = s.arg.r0) ∨ (idx = 0x09 ∧ v = s.arg.r1) ∨ (idx = 0x0A ∧ v = s.arg.r2) ∨
      (idx = 0x0B ∧ v = s.arg.r3) ∨ (idx = 0x0C ∧ v = s.res.r0) ∨ (idx = 0x0D ∧ v = s.res.r1) ∨
      (idx = 0x0E ∧ v = s.res.r2) ∨ (idx = 0x0F ∧ v = s.res.r3) ∨ (idx = 0x10 ∧ v = s.a.len) ∨
      (idx = 0x11 ∧ v = s.b.len) ∨ (idx = 0x12 ∧ v = s.c.len) ∨ (idx = 0x13 ∧ v = s.r.len) ∨
      (idx = 0x14 ∧ v = s.q.len) ∨ (idx = 0x1F ∧ v = 0) ∨
      ∃ bid i, i < VLEN ∧ idx = windowBase bid + i ∧ v = (readCell s bid i).setWidth 32) →
    step s = .next { s with pending := rest, busData := some v }

/-- What a HostWrite of each mapped index but `CMD`, `CTRL` does; read-only registers and the cells of the output
buffers ignore it (R23, R25, R60, R63). -/
def Obligations.HostWritesStore : Prop :=
  ∀ (s u t : State) (rest : List HostAccess) (idx : Nat) (v : Word), s.pending = .write idx v :: rest →
    u = { s with pending := rest } →
    (((idx = 0x00 ∨ idx = 0x02 ∨ idx = 0x04 ∨ idx = 0x05 ∨ idx = 0x0C ∨ idx = 0x0D ∨ idx = 0x0E ∨ idx = 0x0F ∨
          idx = 0x13 ∨ idx = 0x14 ∨ (0x4000 ≤ idx ∧ idx ≤ 0x5FFF)) ∧ t = u) ∨
      (idx = 0x03 ∧ t = { u with evlog := s.evlog &&& ~~~(v &&& ~~~(0x80 : Word)) }) ∨
      (idx = 0x08 ∧ t = { u with arg := { s.arg with r0 := v } }) ∨
      (idx = 0x09 ∧ t = { u with arg := { s.arg with r1 := v } }) ∨
      (idx = 0x0A ∧ t = { u with arg := { s.arg with r2 := v } }) ∨
      (idx = 0x0B ∧ t = { u with arg := { s.arg with r3 := v } }) ∨
      (idx = 0x10 ∧ t = { u with a := { s.a with len := v } }) ∨
      (idx = 0x11 ∧ t = { u with b := { s.b with len := v } }) ∨
      (idx = 0x12 ∧ t = { u with c := { s.c with len := v } }) ∨
      (∃ bid i, bid.isInput = true ∧ i < VLEN ∧ idx = windowBase bid + i ∧ t = writeCell u bid i (v.setWidth 16))) →
    step s = .next t

/-- A cell written by the host reads back as the low 16 bits, zero-extended; a write to an output cell changes nothing;
every other cell and every length stays (R63). -/
def Obligations.CellReadsBack : Prop :=
  ∀ (s : State) (rest : List HostAccess) (bid : BufId) (i : Nat) (v : Word), i < VLEN →
    s.pending = .write (windowBase bid + i) v :: .read (windowBase bid + i) :: rest →
    ∃ t u, step s = .next t ∧ step t = .next u ∧
      u.busData = some (if bid.isInput = true then (v.extractLsb' 0 16).setWidth 32
        else (readCell s bid i).setWidth 32) ∧
      (∀ other j, (other ≠ bid ∨ j ≠ i) → readCell u other j = readCell s other j) ∧
      ∀ other, u.lenOf other = s.lenOf other

/-- An access to an unmapped or reserved index is refused, an access to a mapped one never is (R64). -/
def Obligations.UnmappedIsRefused : Prop :=
  ∀ (s : State) (rest : List HostAccess) (idx : Nat) (v : Word),
    (s.pending = .read idx :: rest →
      (mappedIndex idx = false → step s = .refused (.unmappedRead idx)) ∧
      (mappedIndex idx = true → ∃ t, step s = .next t)) ∧
    (s.pending = .write idx v :: rest →
      (mappedIndex idx = false → step s = .refused (.unmappedWrite idx)) ∧
      (mappedIndex idx = true → ∃ t, step s = .next t))

/-- `EVLOG`: a command that ends with condition `n` sets bit `n`, one whose word matches no row bit 8; the host clears by
writing 1, but for bit 7, which only reset clears; bit 0 is never set; no command reads the log (R25). -/
def Obligations.EvlogRules : Prop :=
  (∀ (s t : State) (i : Instr), exec i s = .next t →
    (∀ n, n < 32 → t.evlog.getLsbD n =
      (s.evlog.getLsbD n || decide (1 ≤ n ∧ n = t.status.cond.code))) ∧
    ∀ e : Word, ∃ e', exec i { s with evlog := e } = .next { t with evlog := e' }) ∧
  (∀ (s : State) (rest : List HostAccess) (w : Word) (x : DecodeError), s.pending = .write 0x1F w :: rest →
    s.status.halted = false → decode w = .error x →
    (∃ t, step s = .next t ∧ t.status.cond = .illegalCommand ∧
      ∀ n, n < 32 → t.evlog.getLsbD n = (s.evlog.getLsbD n || decide (n = 8))) ∧
    ∀ t, step s = .next t → ∀ e : Word, ∃ e', step { s with evlog := e } = .next { t with evlog := e' }) ∧
  (∀ (s : State) (rest : List HostAccess) (v : Word), s.pending = .write 0x03 v :: rest →
    ∃ e : Word, step s = .next { s with pending := rest, evlog := e } ∧
      ∀ n, n < 32 → e.getLsbD n = (s.evlog.getLsbD n && (!v.getLsbD n || decide (n = 7)))) ∧
  (∀ (s t : State) (x : HostAccess) (rest : List HostAccess), s.pending = x :: rest → step s = .next t →
    (s.evlog.getLsbD 0 = false → t.evlog.getLsbD 0 = false) ∧
    (s.evlog.getLsbD 7 = true → x.resets = false → t.evlog.getLsbD 7 = true)) ∧
  State.reset.evlog.getLsbD 0 = false

/-! ### The checks before an operation (R86) -/

/-- Steps 3 and 4: a selector beyond the slots, a build on a valid slot, a use of a slot that is not valid, a code over a
field that is not valid; the state is otherwise unchanged (R86, R245, R252). -/
def Obligations.SelectorAndSlotChecks : Prop :=
  (∀ (s : State) (i : Instr) (kind : SlotKind) (n : Nat), i.slotKind = some kind → i.selector = some n →
    (kind.count ≤ n → exec i s = .next (endWith .operandRange s)) ∧
    (n < kind.count → i.isBuild = true → s.slotValid kind n = true → exec i s = .next (endWith .configError s)) ∧
    (n < kind.count → i.isBuild = false → s.slotValid kind n = false →
      exec i s = .next (endWith .tableNotBuilt s))) ∧
  ∀ (s : State) (r : Nat), r < NRS → s.slotValid .field s.arg0 = false →
    exec (.rsCfg r) s = .next (endWith .configError s)

/-- Steps 5 to 7 of the Field Engine's commands on a valid slot (R108 to R112, R115, R116). -/
def Obligations.FieldOperandChecks : Prop :=
  ∀ (s : State) (f : Nat) (hf : f < NF), s.fields[f].valid = true →
    let m := s.fields[f].m
    (2 ^ m ≤ s.arg0 ∨ 2 ^ m ≤ s.arg1 →
      exec (.gfAdd f) s = .next (endWith .operandRange s) ∧ exec (.gfMul f) s = .next (endWith .operandRange s) ∧
        exec (.gfDiv f) s = .next (endWith .operandRange s)) ∧
    (2 * (2 ^ m - 1) - 1 < s.arg0 → exec (.gfExp f) s = .next (endWith .operandRange s)) ∧
    (s.arg0 = 0 ∨ 2 ^ m ≤ s.arg0 → exec (.gfLog f) s = .next (endWith .operandRange s)) ∧
    (s.lenOf .a = 0 ∨ VLEN < s.lenOf .a ∨ s.lenOf .b = 0 ∨ VLEN < s.lenOf .b →
      exec (.gfPadd f) s = .next (endWith .lengthError s) ∧ exec (.gfPmul f) s = .next (endWith .lengthError s)) ∧
    (1 ≤ s.lenOf .a → s.lenOf .a ≤ VLEN → 1 ≤ s.lenOf .b → s.lenOf .b ≤ VLEN →
      (VLEN < s.lenOf .a + s.lenOf .b - 1 → exec (.gfPmul f) s = .next (endWith .lengthError s)) ∧
      ((∃ x ∈ s.vec .a ++ s.vec .b, 2 ^ m ≤ x) →
        exec (.gfPadd f) s = .next (endWith .operandRange s) ∧
        (s.lenOf .a + s.lenOf .b - 1 ≤ VLEN → exec (.gfPmul f) s = .next (endWith .operandRange s))))

/-- Steps 5 to 7 of the BCH decoder's commands (R133, R135, R136, R138, R139). -/
def Obligations.BchOperandChecks : Prop :=
  (∀ (s : State) (c : Nat) (hc : c < NBCH), s.bch[c].valid = false →
    (s.arg0 < 2 ∨ s.arg1 < 1 ∨ BCH_MAXN < s.arg1 ∨ s.arg2 < 1 ∨ 3 < s.arg2 ∨ s.arg3 < bitlen s.arg0 - 1 ∨
      BCH_MAXSYN < s.arg3) → exec (.bchBuild c) s = .next (endWith .configError s)) ∧
  (∀ (s : State) (i : Instr), i = .bchDiv ∨ i = .bchRepair →
    (s.arg0 = 0 → exec i s = .next (endWith .operandRange s)) ∧
    (1 ≤ s.arg0 →
      (s.lenOf .a = 0 ∨ VLEN < s.lenOf .a → exec i s = .next (endWith .lengthError s)) ∧
      (1 ≤ s.lenOf .a → s.lenOf .a ≤ VLEN → (∃ x ∈ s.vec .a, 2 ≤ x) →
        exec i s = .next (endWith .operandRange s)))) ∧
  ∀ (s : State) (c : Nat) (hc : c < NBCH), s.bch[c].valid = true →
    (s.lenOf .a ≠ s.bch[c].n → exec (.bchLookup c) s = .next (endWith .lengthError s)) ∧
    (s.lenOf .a = s.bch[c].n → (∃ x ∈ s.vec .a, 2 ≤ x) →
      exec (.bchLookup c) s = .next (endWith .operandRange s)) ∧
    (2 ^ s.bch[c].synbits ≤ s.arg0 → exec (.bchSynrd c) s = .next (endWith .operandRange s))

/-- Step 5 of `RS.CFG` on a slot that is not valid over a valid field (R152), and steps 5 to 7 of the other
Reed-Solomon commands on a valid slot (R155, R157, R160, R162, R164, R166, R169, R170). -/
def Obligations.RsOperandChecks : Prop :=
  (∀ (s : State) (r : Nat) (hr : r < NRS) (hf : s.arg0 < NF), s.rs[r].valid = false →
    s.fields[s.arg0].valid = true →
    (s.arg1 < 1 ∨ MAXNSYM < s.arg1 ∨ s.fields[s.arg0].order - 1 < s.arg1 ∨ s.fields[s.arg0].order - 1 < s.arg2 ∨
      s.arg3 ≠ s.fields[s.arg0].gen.toNat) → exec (.rsCfg r) s = .next (endWith .configError s)) ∧
  ∀ (s : State) (r : Nat) (hr : r < NRS), s.rs[r].valid = true →
    let nsym := s.rs[r].nsym
    let t := s.fields[s.rs[r].field]
    let badA : Prop := ∃ x ∈ s.vec .a, 2 ^ t.m ≤ x
    let badFrame : Prop := s.arg0 = 0 ∨ s.arg0 + s.arg1 ≠ nsym
    let longFrame : Prop := s.lenOf .a < s.arg0 + 1 ∨ t.order < s.lenOf .a + s.arg1
    (s.lenOf .a = 0 ∨ t.order < s.lenOf .a + nsym → exec (.rsEnc r) s = .next (endWith .lengthError s)) ∧
    (1 ≤ s.lenOf .a → s.lenOf .a + nsym ≤ t.order → badA → exec (.rsEnc r) s = .next (endWith .operandRange s)) ∧
    (s.lenOf .a = 0 ∨ t.order < s.lenOf .a →
      exec (.rsSynd r) s = .next (endWith .lengthError s) ∧ exec (.rsCorr r) s = .next (endWith .lengthError s)) ∧
    (1 ≤ s.lenOf .a → s.lenOf .a ≤ t.order →
      (badA → exec (.rsSynd r) s = .next (endWith .operandRange s)) ∧
      (s.lenOf .b ≠ nsym ∨ nsym < s.lenOf .c → exec (.rsCorr r) s = .next (endWith .lengthError s)) ∧
      (s.lenOf .b = nsym → s.lenOf .c ≤ nsym →
        (badA ∨ (∃ x ∈ s.vec .b, 2 ^ t.m ≤ x) ∨ ∃ x ∈ s.vec .c, s.lenOf .a ≤ x) →
        exec (.rsCorr r) s = .next (endWith .operandRange s))) ∧
    (s.arg0 = 0 ∨ t.order < s.arg0 →
      exec (.rsEloc r) s = .next (endWith .operandRange s) ∧ exec (.rsEpos r) s = .next (endWith .operandRange s)) ∧
    (1 ≤ s.arg0 → s.arg0 ≤ t.order →
      (s.lenOf .a ≠ nsym ∨ nsym < s.lenOf .b → exec (.rsEloc r) s = .next (endWith .lengthError s)) ∧
      (s.lenOf .a = nsym → s.lenOf .b ≤ nsym → (badA ∨ ∃ x ∈ s.vec .b, s.arg0 ≤ x) →
        exec (.rsEloc r) s = .next (endWith .operandRange s)) ∧
      (s.lenOf .a = 0 ∨ VLEN < s.lenOf .a → exec (.rsEpos r) s = .next (endWith .lengthError s)) ∧
      (1 ≤ s.lenOf .a → s.lenOf .a ≤ VLEN → badA → exec (.rsEpos r) s = .next (endWith .operandRange s))) ∧
    (s.lenOf .a ≤ nsym ∨ t.order < s.lenOf .a ∨ VLEN < s.lenOf .b →
      exec (.rsDec r) s = .next (endWith .lengthError s)) ∧
    (nsym + 1 ≤ s.lenOf .a → s.lenOf .a ≤ t.order → s.lenOf .b ≤ VLEN →
      (badA ∨ ∃ x ∈ s.vec .b, s.lenOf .a ≤ x) → exec (.rsDec r) s = .next (endWith .operandRange s)) ∧
    (badFrame →
      exec (.rsCheck r) s = .next (endWith .operandRange s) ∧ exec (.rsFix r) s = .next (endWith .operandRange s)) ∧
    (¬ badFrame → longFrame →
      exec (.rsCheck r) s = .next (endWith .lengthError s) ∧ exec (.rsFix r) s = .next (endWith .lengthError s)) ∧
    (¬ badFrame → ¬ longFrame → badA →
      exec (.rsCheck r) s = .next (endWith .operandRange s) ∧ exec (.rsFix r) s = .next (endWith .operandRange s))

/-- Steps 5 to 8 of the Puncture Codec's and the framer's commands and of `BUF.COPY`: what turns each away (R191, R193,
R194, R196, R206, R208, R209, R212, R227). -/
def Obligations.StreamOperandChecks : Prop :=
  ∀ s : State,
    let badBit : Prop := ∃ x ∈ s.vec .a, 2 ≤ x
    let badEncoder : Prop := s.arg3 < 1 ∨ CV_MAXK < s.arg3 ∨ 2 ^ s.arg3 ≤ s.arg0 ∨ 2 ^ s.arg3 ≤ s.arg1 ∨
      2 ^ s.arg3 ≤ s.arg2
    (badEncoder → exec .cvEnc s = .next (endWith .operandRange s)) ∧
    (¬ badEncoder → VLEN < 2 * s.lenOf .a → exec .cvEnc s = .next (endWith .lengthError s)) ∧
    (¬ badEncoder → 2 * s.lenOf .a ≤ VLEN → badBit → exec .cvEnc s = .next (endWith .operandRange s)) ∧
    (∀ p (hp : p < NPS), s.sched[p].valid = false → s.arg0 < 1 ∨ MAXPERIOD < s.arg0 ∨ 2 ^ s.arg0 ≤ s.arg1 →
      exec (.pnCfg p) s = .next (endWith .configError s)) ∧
    (∀ p (hp : p < NPS), s.sched[p].valid = true →
      (VLEN < s.lenOf .a → exec (.pnPunc p) s = .next (endWith .lengthError s)) ∧
      (s.lenOf .a ≤ VLEN → badBit → exec (.pnPunc p) s = .next (endWith .operandRange s)) ∧
      (VLEN < s.arg0 → exec (.pnDepunc p) s = .next (endWith .operandRange s)) ∧
      (s.arg0 ≤ VLEN → s.lenOf .a ≠ keptCount s.sched[p] s.arg0 →
        exec (.pnDepunc p) s = .next (endWith .lengthError s)) ∧
      (s.arg0 ≤ VLEN → s.lenOf .a = keptCount s.sched[p] s.arg0 → badBit →
        exec (.pnDepunc p) s = .next (endWith .operandRange s))) ∧
    (1 < s.arg0 → exec .frNorm s = .next (endWith .operandRange s)) ∧
    (s.arg0 ≤ 1 → VLEN < s.lenOf .a ∨ (s.arg0 = 1 ∧ s.lenOf .a % 8 ≠ 0) →
      exec .frNorm s = .next (endWith .lengthError s)) ∧
    (s.arg0 ≤ 1 → s.lenOf .a ≤ VLEN → (s.arg0 = 1 → s.lenOf .a % 8 = 0) → badBit →
      exec .frNorm s = .next (endWith .operandRange s)) ∧
    (s.arg0 = 0 ∨ VLEN < s.arg0 → exec .frDeint s = .next (endWith .operandRange s)) ∧
    (1 ≤ s.arg0 → s.arg0 ≤ VLEN →
      (VLEN < s.lenOf .a → exec .frDeint s = .next (endWith .lengthError s)) ∧
      (s.lenOf .a ≤ VLEN → s.lenOf .a < s.arg1 → exec .frDeint s = .next (endWith .inputTooShort s))) ∧
    (VLEN < s.lenOf .a → exec .frCsum16 s = .next (endWith .lengthError s)) ∧
    (255 < s.arg0 → exec .frRev8 s = .next (endWith .operandRange s)) ∧
    (4 < s.arg0 ∨ 2 < s.arg1 ∨ VLEN < s.arg2 ∨ VLEN < s.arg3 → exec .bufCopy s = .next (endWith .operandRange s)) ∧
    (∀ src, bufOfNumber s.arg0 = some src → s.arg1 ≤ 2 → s.arg2 ≤ VLEN → s.arg3 ≤ VLEN →
      VLEN < s.lenOf src ∨ s.lenOf src < s.arg2 + s.arg3 → exec .bufCopy s = .next (endWith .lengthError s))

/-! ### The Field Engine -/

/-- The tables of a valid slot of a sound state are inverse to one another and hold the powers of the generator (R102,
R103). That the elements form a field is `FieldLaws`. -/
def Obligations.BuiltTablesAreInverse : Prop :=
  ∀ t : FieldSlot, t.Sound → t.valid = true →
    (∀ i, i < t.order → t.logAt (t.expAt i) = i ∧ 1 ≤ t.expAt i ∧ t.expAt i ≤ t.order) ∧
    (∀ x, 1 ≤ x → x ≤ t.order → t.expAt (t.logAt x) = x ∧ t.logAt x < t.order) ∧
    (∀ i, t.order ≤ i → i < 2 * t.order → t.expAt i = t.expAt (i - t.order)) ∧
    t.expAt 0 = 1 ∧ t.expAt 1 = t.gen.toNat ∧
    ∀ i, i < t.order → t.expAt i = powerOf t.prim.toNat t.gen.toNat t.m i

/-- `clmul_mod` is the product of two polynomials over GF(2) reduced modulo `prim` (R101), and multiplication by the
tables of a valid slot is that product (R104). -/
def Obligations.TableProductIsPolynomialProduct : Prop :=
  (∀ a b prim m : Nat, a < 2 ^ m → b < 2 ^ m → 2 ^ m ≤ prim → prim < 2 ^ (m + 1) →
    clmulMod a b prim m < 2 ^ m ∧ ∃ q, carryless a b = carryless q prim ^^^ clmulMod a b prim m) ∧
  ∀ (t : FieldSlot) (x y : Nat), t.Sound → t.valid = true → x < 2 ^ t.m → y < 2 ^ t.m →
    gfMul t x y = clmulMod x y t.prim.toNat t.m

/-- The laws of the field, with addition as `xor`; every element but 0 has exactly one inverse; the quotient is the one
element that multiplied by the divisor gives the dividend; only division by zero is undefined; powers of either sign go
by one factor more for each next exponent (R105, R106, R107, R117). -/
def Obligations.FieldLaws : Prop :=
  ∀ t : FieldSlot, t.Sound → t.valid = true → ∀ x y z, x < 2 ^ t.m → y < 2 ^ t.m → z < 2 ^ t.m →
    gfAdd x y < 2 ^ t.m ∧ gfAdd x x = 0 ∧ gfMul t x y < 2 ^ t.m ∧ gfMul t x y = gfMul t y x ∧
    gfMul t (gfMul t x y) z = gfMul t x (gfMul t y z) ∧ gfMul t 1 x = x ∧
    gfMul t x (gfAdd y z) = gfAdd (gfMul t x y) (gfMul t x z) ∧
    (x ≠ 0 → ∃ u, gfInv t x = some u ∧ u < 2 ^ t.m ∧ gfMul t x u = 1 ∧
      ∀ v, v < 2 ^ t.m → gfMul t x v = 1 → v = u) ∧
    gfDiv t x 0 = none ∧
    (y ≠ 0 → ∃ q, gfDiv t x y = some q ∧ q < 2 ^ t.m ∧ gfMul t q y = x ∧
      ∀ v, v < 2 ^ t.m → gfMul t v y = x → v = q) ∧
    (x ≠ 0 → gfPow t x 0 = 1 ∧ gfInv t x = some (gfPow t x (-1)) ∧
      ∀ p : Int, gfPow t x (p + 1) = gfMul t (gfPow t x p) x ∧ gfPow t x (p + (t.order : Int)) = gfPow t x p ∧
        1 ≤ gfPow t x p ∧ gfPow t x p < 2 ^ t.m)

/-- The polynomial helpers: sums aligned at the low-order end, products place by place, and Horner's value is the sum of
the terms (R113). -/
def Obligations.PolynomialHelpers : Prop :=
  (∀ p q : List Nat, (polyAdd p q).length = max p.length q.length ∧
    ∀ j, (polyAdd p q).reverse.getD j 0 = p.reverse.getD j 0 ^^^ q.reverse.getD j 0) ∧
  (∀ (t : FieldSlot) (p q : List Nat), p ≠ [] → q ≠ [] →
    (polyMul t p q).length = p.length + q.length - 1 ∧
    ∀ k, (polyMul t p q).getD k 0 = gfSum p.length fun i =>
      if i ≤ k ∧ k - i < q.length then gfMul t (p.getD i 0) (q.getD (k - i) 0) else 0) ∧
  ∀ (t : FieldSlot) (p : List Nat) (x : Nat), t.Sound → t.valid = true → (∀ a ∈ p, a < 2 ^ t.m) → x < 2 ^ t.m →
    polyEval t p x = gfSum p.length fun i =>
      gfMul t (p.getD i 0) (gfPow t x ((p.length : Int) - 1 - (i : Int)))

/-- `GF.BUILD` on a slot that is not valid: with operands in range and powers of the generator that cycle it completes,
the slot holds the powers and their logarithms, and nothing else changes; with an operand out of range, or powers that do
not cycle, it is a `ConfigError` and the slot stays invalid (R102, R244, R245). -/
def Obligations.FieldBuildCompletesOrHalts : Prop :=
  ∀ (s : State) (f : Nat) (hf : f < NF), s.fields[f].valid = false →
    let prim := s.arg0
    let gen := s.arg1
    let m := s.arg2
    let inRange : Prop :=
      1 ≤ m ∧ m ≤ MAXM ∧ 2 ^ m ≤ prim ∧ prim < 2 ^ (m + 1) ∧ 1 ≤ gen ∧ gen ≤ 2 ^ m - 1
    (inRange → PowersCycle prim gen m →
      ∃ t, exec (.gfBuild f) s = .next t ∧ EndsOk s t ∧ KeepsControl s t ∧ t.res = s.res ∧ KeepsMemory s t ∧
        t.bch = s.bch ∧ t.rs = s.rs ∧ t.sched = s.sched ∧
        (∀ g (hg : g < NF), g ≠ f → t.fields[g] = s.fields[g]) ∧
        t.fields[f].valid = true ∧ t.fields[f].m = m ∧ t.fields[f].prim.toNat = prim ∧
        t.fields[f].gen.toNat = gen ∧
        (∀ i, i < 2 * (2 ^ m - 1) → t.fields[f].expAt i = powerOf prim gen m (i % (2 ^ m - 1))) ∧
        ∀ i, i < 2 ^ m - 1 → t.fields[f].logAt (powerOf prim gen m i) = i) ∧
    (¬ inRange → exec (.gfBuild f) s = .next (endWith .configError s)) ∧
    (inRange → ¬ PowersCycle prim gen m →
      ∃ t, exec (.gfBuild f) s = .next t ∧ EndsWith .configError s t ∧ t.status.halted = true ∧ KeepsControl s t ∧
        t.res = s.res ∧ KeepsMemory s t ∧ t.bch = s.bch ∧ t.rs = s.rs ∧ t.sched = s.sched ∧
        (∀ g (hg : g < NF), g ≠ f → t.fields[g] = s.fields[g]) ∧ t.fields[f].valid = false)

/-- `GF.ADD`, `GF.MUL`, `GF.EXP`, `GF.LOG` on a valid slot with operands in range complete with their value in `RES[0]`
and change nothing else (R108, R109, R111, R112). -/
def Obligations.FieldScalarCommandsComplete : Prop :=
  ∀ (s : State) (f : Nat) (hf : f < NF), s.fields[f].valid = true →
    (s.arg0 < 2 ^ s.fields[f].m → s.arg1 < 2 ^ s.fields[f].m →
      (∃ t, exec (.gfAdd f) s = .next t ∧ OnlyRes0 s t (s.arg0 ^^^ s.arg1)) ∧
      ∃ t, exec (.gfMul f) s = .next t ∧ OnlyRes0 s t (if s.arg0 = 0 ∨ s.arg1 = 0 then 0
        else s.fields[f].expAt (s.fields[f].logAt s.arg0 + s.fields[f].logAt s.arg1))) ∧
    (s.arg0 ≤ 2 * (2 ^ s.fields[f].m - 1) - 1 →
      ∃ t, exec (.gfExp f) s = .next t ∧ OnlyRes0 s t (s.fields[f].expAt s.arg0)) ∧
    (1 ≤ s.arg0 → s.arg0 ≤ 2 ^ s.fields[f].m - 1 →
      ∃ t, exec (.gfLog f) s = .next t ∧ OnlyRes0 s t (s.fields[f].logAt s.arg0))

/-- `GF.DIV` on a valid slot with elements as operands completes with the quotient in `RES[0]` and changes nothing else;
a zero divisor ends it with `DivisionByZero`, `0 / 0` too, and `RES[0]` stays (R105, R110). -/
def Obligations.FieldDivisionCompletes : Prop :=
  ∀ (s : State) (f : Nat) (hf : f < NF), s.Sound → s.fields[f].valid = true → s.arg0 < 2 ^ s.fields[f].m →
    s.arg1 < 2 ^ s.fields[f].m →
    (s.arg1 ≠ 0 → ∃ t z, exec (.gfDiv f) s = .next t ∧ OnlyRes0 s t z ∧ z < 2 ^ s.fields[f].m ∧
      gfMul s.fields[f] z s.arg1 = s.arg0) ∧
    (s.arg1 = 0 → exec (.gfDiv f) s = .next (endWith .divisionByZero s))

/-- `GF.PADD` and `GF.PMUL` on a valid slot with legal lengths and cells complete with the sum and the product in `R`
and change nothing else (R115, R116). -/
def Obligations.FieldVectorCommandsComplete : Prop :=
  ∀ (s : State) (f : Nat) (hf : f < NF), s.fields[f].valid = true → 1 ≤ s.lenOf .a → s.lenOf .a ≤ VLEN →
    1 ≤ s.lenOf .b → s.lenOf .b ≤ VLEN → (∀ x ∈ s.vec .a, x < 2 ^ s.fields[f].m) →
    (∀ x ∈ s.vec .b, x < 2 ^ s.fields[f].m) →
    (∃ t, exec (.gfPadd f) s = .next t ∧ EndsOk s t ∧ t.res = s.res ∧
      WritesR s t (polyAdd (s.vec .a) (s.vec .b)) ∧ t.lenOf .r = max (s.lenOf .a) (s.lenOf .b)) ∧
    (s.lenOf .a + s.lenOf .b - 1 ≤ VLEN →
      ∃ t, exec (.gfPmul f) s = .next t ∧ EndsOk s t ∧ t.res = s.res ∧
        WritesR s t (polyMul s.fields[f] (s.vec .a) (s.vec .b)) ∧ t.lenOf .r = s.lenOf .a + s.lenOf .b - 1)

/-! ### The BCH decoder -/

/-- The five facts about `gf2_rem`: it is the remainder of the polynomial division, linear, zero exactly on multiples,
independent of leading zeros, and 0 for `poly = 1` (R132). -/
def Obligations.RemainderFacts : Prop :=
  ∀ poly L w : Nat, 1 ≤ poly → w < 2 ^ L →
    let d := bitlen poly - 1
    ((∃ q, w = carryless q poly ^^^ gf2Rem poly L w) ∧ gf2Rem poly L w < 2 ^ d ∧
      (∀ q r, w = carryless q poly ^^^ r → r < 2 ^ d → r = gf2Rem poly L w) ∧
      (L ≤ d → gf2Rem poly L w = w)) ∧
    (∀ v, v < 2 ^ L → gf2Rem poly L (w ^^^ v) = gf2Rem poly L w ^^^ gf2Rem poly L v) ∧
    (gf2Rem poly L w = 0 ↔ ∃ q, w = carryless q poly) ∧
    (∀ L', L ≤ L' → gf2Rem poly L' w = gf2Rem poly L w) ∧
    (poly = 1 → gf2Rem poly L w = 0)

/-- A syndrome's entry is the first pattern with that syndrome, single bits in ascending order, then, where two errors
were asked for, pairs in the order of their lower and then their higher position (R133, R134). In a valid slot every
entry's syndrome indexes the table and is its pattern's. -/
def Obligations.SyndromeTableFirstWins : Prop :=
  (∀ poly n maxErrors x : Nat,
    synAt (buildSyn poly n maxErrors) x =
      match (List.range n).find? fun p => gf2Rem poly n (1 <<< p) == x with
      | some p => some { weight := 1, pattern := BitVec.ofNat 32 (1 <<< p) }
      | none =>
        if 2 ≤ maxErrors then
          (firstPair n fun i j => gf2Rem poly n ((1 <<< i) ||| (1 <<< j)) == x).map fun ij =>
            { weight := 2, pattern := BitVec.ofNat 32 ((1 <<< ij.1) ||| (1 <<< ij.2)) }
        else none) ∧
  ∀ t : BchSlot, t.Sound → t.valid = true → ∀ x e, (x, e) ∈ t.syn →
    x < 2 ^ t.synbits ∧ gf2Rem t.poly.toNat t.n e.pattern.toNat = x ∧ e.pattern.toNat < 2 ^ t.n ∧
      (e.weight = 1 ∨ e.weight = 2)

/-- What the search finds: a codeword as it is; a codeword with one bit flipped where no lower position has the same
syndrome; with two where no single bit and no earlier pair has it; every single flip under `(29, 7)` (R137 a, b, c). -/
def Obligations.RepairUndoesFlips : Prop :=
  (∀ poly L c : Nat, 1 ≤ poly → c < 2 ^ L → gf2Rem poly L c = 0 →
    bchSearch poly L c = some (0, c) ∧
    (∀ i, i < L → gf2Rem poly L (1 <<< i) ≠ 0 →
      (∀ p, p < i → gf2Rem poly L (1 <<< p) ≠ gf2Rem poly L (1 <<< i)) →
      bchSearch poly L (c ^^^ (1 <<< i)) = some (1, c)) ∧
    ∀ i j, i < j → j < L → gf2Rem poly L ((1 <<< i) ^^^ (1 <<< j)) ≠ 0 →
      (∀ p, p < L → gf2Rem poly L (1 <<< p) ≠ gf2Rem poly L ((1 <<< i) ^^^ (1 <<< j))) →
      (∀ p q, p < q → q < L → (p < i ∨ (p = i ∧ q < j)) →
        gf2Rem poly L ((1 <<< p) ^^^ (1 <<< q)) ≠ gf2Rem poly L ((1 <<< i) ^^^ (1 <<< j))) →
      bchSearch poly L (c ^^^ (1 <<< i) ^^^ (1 <<< j)) = some (2, c)) ∧
  ∀ c i : Nat, c < 128 → gf2Rem 29 7 c = 0 → i < 7 → bchSearch 29 7 (c ^^^ (1 <<< i)) = some (1, c)

/-- `BCH.LOOKUP` with a table of two errors or more is `BCH.REPAIR` with the slot's polynomial on every word of the slot's
length; with a table of one error they agree but where `BCH.REPAIR` flips two bits, and there the lookup returns the
sentinel and the word (R137 e). -/
def Obligations.RepairAgreesWithLookup : Prop :=
  ∀ (s : State) (c : Nat) (hc : c < NBCH), s.Sound → s.bch[c].valid = true → s.arg.r0 = s.bch[c].poly →
    s.lenOf .a = s.bch[c].n →
    (2 ≤ s.bch[c].maxErrors → exec (.bchLookup c) s = exec .bchRepair s) ∧
    (s.bch[c].maxErrors = 1 → ∀ t, exec .bchRepair s = .next t →
      (t.status.cond ≠ .ok ∨ t.res.r0 ≠ 2 → exec (.bchLookup c) s = .next t) ∧
      (t.status.cond = .ok → t.res.r0 = 2 →
        ∃ u, exec (.bchLookup c) s = .next u ∧ EndsWith .uncorrectable s u ∧ WritesR s u (s.vec .a) ∧
          u.res.r0 = 0xFFFFFFFF ∧ u.res.r1 = t.res.r1 ∧ KeepsRes23 s u))

/-- `BCH.BUILD` and `PN.CFG` on a slot that is not valid, with operands in range, complete: the slot holds its
parameters and, for a BCH slot, the syndrome table, and nothing else changes (R133, R193). -/
def Obligations.CodeBuildsComplete : Prop :=
  (∀ (s : State) (c : Nat) (hc : c < NBCH), s.bch[c].valid = false → 2 ≤ s.arg0 → 1 ≤ s.arg1 → s.arg1 ≤ BCH_MAXN →
    1 ≤ s.arg2 → s.arg2 ≤ 3 → bitlen s.arg0 - 1 ≤ s.arg3 → s.arg3 ≤ BCH_MAXSYN →
    ∃ t, exec (.bchBuild c) s = .next t ∧ EndsOk s t ∧ KeepsControl s t ∧ t.res = s.res ∧ KeepsMemory s t ∧
      t.fields = s.fields ∧ t.rs = s.rs ∧ t.sched = s.sched ∧
      (∀ d (hd : d < NBCH), d ≠ c → t.bch[d] = s.bch[d]) ∧
      t.bch[c] =
        { valid := true
          poly := s.arg.r0
          n := s.arg1
          synbits := s.arg3
          maxErrors := s.arg2
          syn := buildSyn s.arg0 s.arg1 s.arg2 }) ∧
  ∀ (s : State) (p : Nat) (hp : p < NPS), s.sched[p].valid = false → 1 ≤ s.arg0 → s.arg0 ≤ MAXPERIOD →
    s.arg1 < 2 ^ s.arg0 →
    ∃ t, exec (.pnCfg p) s = .next t ∧ EndsOk s t ∧ KeepsControl s t ∧ t.res = s.res ∧ KeepsMemory s t ∧
      t.fields = s.fields ∧ t.bch = s.bch ∧ t.rs = s.rs ∧
      (∀ d (hd : d < NPS), d ≠ p → t.sched[d] = s.sched[d]) ∧
      t.sched[p] = { valid := true, period := s.arg0, pattern := s.arg.r1 }

/-- `BCH.DIV` completes with the remainder, which fits 32 bits, in `RES[0]`, and `BCH.SYNRD` with the entry of the table
in `RES[0..2]`, an empty entry reading (0, 0, 0); nothing else changes (R135, R139). -/
def Obligations.BchReadsComplete : Prop :=
  (∀ s : State, 1 ≤ s.arg0 → 1 ≤ s.lenOf .a → s.lenOf .a ≤ VLEN → (∀ x ∈ s.vec .a, x < 2) →
    ∃ t, exec .bchDiv s = .next t ∧ OnlyRes0 s t (gf2Rem s.arg0 (s.lenOf .a) (wordOf (s.vec .a)))) ∧
  ∀ (s : State) (c : Nat) (hc : c < NBCH), s.bch[c].valid = true → s.arg0 < 2 ^ s.bch[c].synbits →
    ∃ t, exec (.bchSynrd c) s = .next t ∧ EndsOk s t ∧ KeepsControl s t ∧ KeepsMemory s t ∧ KeepsTables s t ∧
      t.res.r3 = s.res.r3 ∧
      match synAt s.bch[c].syn s.arg0 with
      | none => t.res.r0 = 0 ∧ t.res.r1 = 0 ∧ t.res.r2 = 0
      | some e => t.res.r0 = 1 ∧ t.res.r1.toNat = e.weight.toNat ∧ t.res.r2 = e.pattern

/-- `BCH.REPAIR` completes with the first correction of at most two bits, in `R`, its count in `RES[0]` and the syndrome
in `RES[1]`; without one it ends with `Uncorrectable`, the word unchanged in `R` and the sentinel in `RES[0]`; nothing
else changes (R136). -/
def Obligations.RepairCompletes : Prop :=
  ∀ s : State, 1 ≤ s.arg0 → 1 ≤ s.lenOf .a → s.lenOf .a ≤ VLEN → (∀ x ∈ s.vec .a, x < 2) →
    let L := s.lenOf .a
    let w := wordOf (s.vec .a)
    let synd := gf2Rem s.arg0 L w
    let one := (List.range L).find? fun i => gf2Rem s.arg0 L (w ^^^ (1 <<< i)) == 0
    let two := firstPair L fun i j => gf2Rem s.arg0 L (w ^^^ (1 <<< i) ^^^ (1 <<< j)) == 0
    ∃ t, exec .bchRepair s = .next t ∧ KeepsRes23 s t ∧ t.res.r1.toNat = synd ∧
      (synd = 0 → EndsOk s t ∧ WritesR s t (s.vec .a) ∧ t.res.r0 = 0) ∧
      (∀ i, synd ≠ 0 → one = some i → EndsOk s t ∧ WritesR s t (bitsOf (w ^^^ (1 <<< i)) L) ∧ t.res.r0 = 1) ∧
      (∀ i j, synd ≠ 0 → one = none → two = some (i, j) →
        EndsOk s t ∧ WritesR s t (bitsOf (w ^^^ (1 <<< i) ^^^ (1 <<< j)) L) ∧ t.res.r0 = 2) ∧
      (synd ≠ 0 → one = none → two = none →
        EndsWith .uncorrectable s t ∧ WritesR s t (s.vec .a) ∧ t.res.r0 = 0xFFFFFFFF)

/-- `BCH.LOOKUP` completes with the table's correction, in `R`, its weight in `RES[0]` and the syndrome in `RES[1]`; with
an empty entry it ends with `Uncorrectable`, the word unchanged in `R` and the sentinel in `RES[0]`; nothing else
changes (R138). -/
def Obligations.LookupCompletes : Prop :=
  ∀ (s : State) (c : Nat) (hc : c < NBCH), s.Sound → s.bch[c].valid = true → s.lenOf .a = s.bch[c].n →
    (∀ x ∈ s.vec .a, x < 2) →
    let n := s.bch[c].n
    let w := wordOf (s.vec .a)
    let synd := gf2Rem s.bch[c].poly.toNat n w
    ∃ t, exec (.bchLookup c) s = .next t ∧ KeepsRes23 s t ∧ t.res.r1.toNat = synd ∧
      (synd = 0 → EndsOk s t ∧ WritesR s t (s.vec .a) ∧ t.res.r0 = 0) ∧
      (∀ e, synd ≠ 0 → synAt s.bch[c].syn synd = some e →
        EndsOk s t ∧ WritesR s t (bitsOf (w ^^^ e.pattern.toNat) n) ∧ t.res.r0.toNat = e.weight.toNat ∧
          gf2Rem s.bch[c].poly.toNat n (w ^^^ e.pattern.toNat) = 0) ∧
      (synd ≠ 0 → synAt s.bch[c].syn synd = none →
        EndsWith .uncorrectable s t ∧ WritesR s t (s.vec .a) ∧ t.res.r0 = 0xFFFFFFFF)

/-! ### The Reed-Solomon codec -/

/-- The generator polynomial of a valid code has its roots at `a^fcr .. a^(fcr+nsym-1)`; every encoded word keeps its
message, has only zero syndromes, and decodes to its message and parity with no erratum, whatever erasures are declared
(R151, R154, R165). -/
def Obligations.EncodedWordsAreCodewords : Prop :=
  ∀ (s : State) (r : Nat) (hr : r < NRS), s.Sound → s.rs[r].valid = true →
    let k := s.rs[r]
    let t := s.fields[k.field]
    (∀ i, i < k.nsym → polyEval t (k.genpoly.map BitVec.toNat) (gfPow t k.a ((k.fcr + i : Nat) : Int)) = 0) ∧
    ∀ msg : List Nat, msg ≠ [] → msg.length + k.nsym ≤ t.order → (∀ x ∈ msg, x < 2 ^ t.m) →
      (rsEncode t k msg).length = msg.length + k.nsym ∧ (rsEncode t k msg).take msg.length = msg ∧
      (∀ x ∈ rsEncode t k msg, x < 2 ^ t.m) ∧
      rsSyndromes t k (rsEncode t k msg) = List.replicate k.nsym 0 ∧
      ∀ eras, rsDecode t k (rsEncode t k msg) eras =
        .ok { msg := msg, par := (rsEncode t k msg).drop msg.length, count := 0 }

/-- The guarantees of `RS.DEC` (R167 a, b). Whenever it ends with `OK`, `R` followed by `Q` is a word of the received
length with only zero syndromes. On a legal word that differs from a codeword at `e` positions not declared, all its
other differences being at the `rho` positions declared, it ends with `OK` and that codeword in `R` and `Q` if
`2 e + rho <= nsym`; the count is 0 for the codeword itself and `e + rho` otherwise (R165). Beside this, with a non-zero
syndrome: more than `nsym` declared erasures end it with `UncorrectableMessage`, a repeated one among at most `nsym` with
`LocatorNotFound` (R166). -/
def Obligations.DecodedWordIsCodeword : Prop :=
  (∀ (s u : State) (r : Nat) (hr : r < NRS), s.Sound → s.rs[r].valid = true → exec (.rsDec r) s = .next u →
    u.status.cond = .ok →
    u.lenOf .r + u.lenOf .q = s.lenOf .a ∧ u.lenOf .q = s.rs[r].nsym ∧
      rsSyndromes s.fields[s.rs[r].field] s.rs[r] (u.vec .r ++ u.vec .q) = List.replicate s.rs[r].nsym 0) ∧
  ∀ (s : State) (r : Nat) (hr : r < NRS), s.Sound → s.rs[r].valid = true →
    let k := s.rs[r]
    let t := s.fields[k.field]
    let n := s.lenOf .a
    k.nsym + 1 ≤ n → n ≤ t.order → s.lenOf .b ≤ VLEN → (∀ x ∈ s.vec .a, x < 2 ^ t.m) → (∀ p ∈ s.vec .b, p < n) →
    ((s.vec .b).Nodup → ∀ word : List Nat, word.length = n → (∀ x ∈ word, x < 2 ^ t.m) →
      rsSyndromes t k word = List.replicate k.nsym 0 →
      let errors := ((List.range n).filter fun p => p ∉ s.vec .b ∧ (s.vec .a)[p]? ≠ word[p]?).length
      2 * errors + s.lenOf .b ≤ k.nsym →
      ∃ u, exec (.rsDec r) s = .next u ∧ EndsOk s u ∧ KeepsRes123 s u ∧
        WritesRQ s u (word.take (n - k.nsym)) (word.drop (n - k.nsym)) ∧
        u.res.r0.toNat = if s.vec .a = word then 0 else errors + s.lenOf .b) ∧
    (rsSyndromes t k (s.vec .a) ≠ List.replicate k.nsym 0 →
      (k.nsym < s.lenOf .b → exec (.rsDec r) s = .next (endWith .uncorrectableMessage s)) ∧
      (s.lenOf .b ≤ k.nsym → ¬ (s.vec .b).Nodup → exec (.rsDec r) s = .next (endWith .locatorNotFound s)))

/-- The locator `rs_eloc` returns has the constant term 1, no leading zero, and a degree of at most `nsym`; with no
erasures and zero syndromes it is `[1]` (R159, R160). The root search returns, in descending order, the positions of the
word whose inverse locator values are roots, if they are as many as the degree, and fails otherwise (R161). -/
def Obligations.LocatorAndPositions : Prop :=
  (∀ (s : State) (r : Nat) (hr : r < NRS) (synd eras : List Nat) (n : Nat), s.Sound → s.rs[r].valid = true →
    let k := s.rs[r]
    let t := s.fields[k.field]
    synd.length = k.nsym → (∀ x ∈ synd, x < 2 ^ t.m) → eras.length ≤ k.nsym → 1 ≤ n → n ≤ t.order →
    (∀ e ∈ eras, e < n) →
    let loc := rsEloc t k synd eras n
    loc.getLast? = some 1 ∧ loc.head? ≠ some 0 ∧ loc.length ≤ k.nsym + 1 ∧ (∀ x ∈ loc, x < 2 ^ t.m) ∧
      (eras = [] → (∀ x ∈ synd, x = 0) → loc = [1])) ∧
  ∀ (t : FieldSlot) (k : RsSlot) (loc : List Nat) (n : Nat), loc ≠ [] →
    let lead := stripLeading loc
    let isRoot := fun p : Nat => polyEval t lead (gfPow t k.a (-((n - 1 - p : Nat) : Int))) = 0
    (∀ pos, rsEpos t k loc n = some pos →
      pos.length = lead.length - 1 ∧ pos.Pairwise (fun p q => q < p) ∧ ∀ p, p ∈ pos ↔ p < n ∧ isRoot p) ∧
    (rsEpos t k loc n = none →
      ∀ pos : List Nat, pos.Nodup → (∀ p, p ∈ pos ↔ p < n ∧ isRoot p) → pos.length ≠ lead.length - 1)

/-- `RS.CFG` on a slot that is not valid, over a valid field, with operands in range, completes: the slot holds its
parameters and the generator polynomial, of `nsym + 1` coefficients with 1 first, and nothing else changes (R152). -/
def Obligations.CodeConfigurationCompletes : Prop :=
  ∀ (s : State) (r : Nat) (hr : r < NRS) (hf : s.arg0 < NF), s.Sound → s.rs[r].valid = false →
    s.fields[s.arg0].valid = true → 1 ≤ s.arg1 → s.arg1 ≤ MAXNSYM → s.arg1 ≤ s.fields[s.arg0].order - 1 →
    s.arg2 ≤ s.fields[s.arg0].order - 1 → s.arg3 = s.fields[s.arg0].gen.toNat →
    ∃ t, exec (.rsCfg r) s = .next t ∧ EndsOk s t ∧ KeepsControl s t ∧ t.res = s.res ∧ KeepsMemory s t ∧
      t.fields = s.fields ∧ t.bch = s.bch ∧ t.sched = s.sched ∧
      (∀ d (hd : d < NRS), d ≠ r → t.rs[d] = s.rs[d]) ∧
      t.rs[r].valid = true ∧ t.rs[r].field = ⟨s.arg0, hf⟩ ∧ t.rs[r].nsym = s.arg1 ∧ t.rs[r].fcr = s.arg2 ∧
      t.rs[r].gen.toNat = s.arg3 ∧
      t.rs[r].genpoly.map BitVec.toNat = rsGenpoly s.fields[s.arg0] s.arg1 s.arg2 s.arg3 ∧
      t.rs[r].genpoly.length = s.arg1 + 1 ∧ t.rs[r].genpoly.head? = some 1

/-- `RS.GPOLY` completes with the generator polynomial in `R`, and `RS.ENC`, for a message of legal length and cells, with
the codeword in `R`; nothing else changes (R153, R155). -/
def Obligations.EncoderCompletes : Prop :=
  ∀ (s : State) (r : Nat) (hr : r < NRS), s.Sound → s.rs[r].valid = true →
    let k := s.rs[r]
    let t := s.fields[k.field]
    (∃ u, exec (.rsGpoly r) s = .next u ∧ EndsOk s u ∧ u.res = s.res ∧ WritesR s u (k.genpoly.map BitVec.toNat) ∧
      u.lenOf .r = k.nsym + 1) ∧
    (1 ≤ s.lenOf .a → s.lenOf .a + k.nsym ≤ t.order → (∀ x ∈ s.vec .a, x < 2 ^ t.m) →
      ∃ u, exec (.rsEnc r) s = .next u ∧ EndsOk s u ∧ u.res = s.res ∧ WritesR s u (rsEncode t k (s.vec .a)) ∧
        u.lenOf .r = s.lenOf .a + k.nsym)

/-- The stages of the decoder complete on legal operands: `RS.SYND` with the syndromes in `R` and in `RES[0]` whether all
are 0; `RS.ELOC` with the locator and its degree; `RS.EPOS` with the positions and their number, or `LocatorNotFound`;
nothing else changes (R157, R160, R162). -/
def Obligations.DecoderStagesComplete : Prop :=
  ∀ (s : State) (r : Nat) (hr : r < NRS), s.Sound → s.rs[r].valid = true →
    let k := s.rs[r]
    let t := s.fields[k.field]
    (∀ x ∈ s.vec .a, x < 2 ^ t.m) →
    (1 ≤ s.lenOf .a → s.lenOf .a ≤ t.order →
      ∃ u, exec (.rsSynd r) s = .next u ∧ EndsOk s u ∧ WritesR s u (rsSyndromes t k (s.vec .a)) ∧
        u.lenOf .r = k.nsym ∧ KeepsRes123 s u ∧
        u.res.r0 = if ∀ x ∈ rsSyndromes t k (s.vec .a), x = 0 then 1 else 0) ∧
    (1 ≤ s.arg0 → s.arg0 ≤ t.order →
      (s.lenOf .a = k.nsym → s.lenOf .b ≤ k.nsym → (∀ x ∈ s.vec .b, x < s.arg0) →
        ∃ u, exec (.rsEloc r) s = .next u ∧ EndsOk s u ∧ KeepsRes123 s u ∧
          WritesR s u (rsEloc t k (s.vec .a) (s.vec .b) s.arg0) ∧ u.res.r0.toNat + 1 = u.lenOf .r) ∧
      (1 ≤ s.lenOf .a → s.lenOf .a ≤ VLEN →
        (∀ pos, rsEpos t k (s.vec .a) s.arg0 = some pos →
          ∃ u, exec (.rsEpos r) s = .next u ∧ EndsOk s u ∧ WritesR s u pos ∧ u.res.r0.toNat = pos.length ∧
            KeepsRes123 s u) ∧
        (rsEpos t k (s.vec .a) s.arg0 = none → exec (.rsEpos r) s = .next (endWith .locatorNotFound s))))

/-- `RS.CORR` on legal operands completes with the corrected word in `R`, of the received length, and changes nothing
else; with different positions it always does; with a position twice, where the locator's derivative is 0, it ends with
`DivisionByZero` and writes nothing (R164, R165, R247). -/
def Obligations.CorrectionCompletes : Prop :=
  ∀ (s : State) (r : Nat) (hr : r < NRS), s.Sound → s.rs[r].valid = true →
    let k := s.rs[r]
    let t := s.fields[k.field]
    1 ≤ s.lenOf .a → s.lenOf .a ≤ t.order → s.lenOf .b = k.nsym → s.lenOf .c ≤ k.nsym →
    (∀ x ∈ s.vec .a, x < 2 ^ t.m) → (∀ x ∈ s.vec .b, x < 2 ^ t.m) → (∀ x ∈ s.vec .c, x < s.lenOf .a) →
    ((s.vec .c).Nodup → ∃ out, rsCorr t k (s.vec .a) (s.vec .b) (s.vec .c) = some out) ∧
    (∀ out, rsCorr t k (s.vec .a) (s.vec .b) (s.vec .c) = some out →
      ∃ u, exec (.rsCorr r) s = .next u ∧ EndsOk s u ∧ u.res = s.res ∧ WritesR s u out ∧
        u.lenOf .r = s.lenOf .a) ∧
    (rsCorr t k (s.vec .a) (s.vec .b) (s.vec .c) = none →
      exec (.rsCorr r) s = .next (endWith .divisionByZero s)) ∧
    (¬ (s.vec .c).Nodup → exec (.rsCorr r) s = .next (endWith .divisionByZero s))

/-- `RS.DEC` on legal operands completes with what `rs_decode` returns: the message in `R`, the parity in `Q`, the count
in `RES[0]`, and nothing else changes; where `rs_decode` fails the command ends with its condition and writes nothing
(R166). -/
def Obligations.DecoderCompletes : Prop :=
  ∀ (s : State) (r : Nat) (hr : r < NRS), s.Sound → s.rs[r].valid = true →
    let k := s.rs[r]
    let t := s.fields[k.field]
    k.nsym + 1 ≤ s.lenOf .a → s.lenOf .a ≤ t.order → s.lenOf .b ≤ VLEN → (∀ x ∈ s.vec .a, x < 2 ^ t.m) →
    (∀ x ∈ s.vec .b, x < s.lenOf .a) →
    (∀ d, rsDecode t k (s.vec .a) (s.vec .b) = .ok d →
      ∃ u, exec (.rsDec r) s = .next u ∧ EndsOk s u ∧ WritesRQ s u d.msg d.par ∧
        u.lenOf .r = s.lenOf .a - k.nsym ∧ u.lenOf .q = k.nsym ∧ u.res.r0.toNat = d.count ∧ KeepsRes123 s u) ∧
    ∀ c, rsDecode t k (s.vec .a) (s.vec .b) = .error c → exec (.rsDec r) s = .next (endWith c s)

/-- `RS.CHECK` on a legal frame completes with 1 in `RES[0]` if the frame's parity is that of its message encoded again,
0 otherwise, and changes nothing else (R169). -/
def Obligations.FrameCheckCompletes : Prop :=
  ∀ (s : State) (r : Nat) (hr : r < NRS), s.Sound → s.rs[r].valid = true →
    let k := s.rs[r]
    let t := s.fields[k.field]
    1 ≤ s.arg0 → s.arg0 + s.arg1 = k.nsym → s.arg0 + 1 ≤ s.lenOf .a → s.lenOf .a + s.arg1 ≤ t.order →
    (∀ x ∈ s.vec .a, x < 2 ^ t.m) →
    let n := s.lenOf .a - s.arg0
    let cw := rsEncode t k ((s.vec .a).take n)
    ∃ u, exec (.rsCheck r) s = .next u ∧
      OnlyRes0 s u (if (cw.drop n).take s.arg0 = (s.vec .a).drop n then 1 else 0)

/-- `RS.FIX` on a legal frame completes with what `rs_decode` returns for the frame and `E` erased zeros: the message in
`R`, the transmitted parity in `Q`, 1 and the count in `RES`; where that fails it ends with the condition and zeros in
`RES[0]`, `RES[1]`, `RLEN` and `QLEN`; nothing else changes (R170). -/
def Obligations.FrameFixCompletes : Prop :=
  ∀ (s : State) (r : Nat) (hr : r < NRS), s.Sound → s.rs[r].valid = true →
    let k := s.rs[r]
    let t := s.fields[k.field]
    1 ≤ s.arg0 → s.arg0 + s.arg1 = k.nsym → s.arg0 + 1 ≤ s.lenOf .a → s.lenOf .a + s.arg1 ≤ t.order →
    (∀ x ∈ s.vec .a, x < 2 ^ t.m) →
    let recv := s.vec .a ++ List.replicate s.arg1 0
    let eras := (List.range s.arg1).map fun j => s.lenOf .a + j
    (∀ d, rsDecode t k recv eras = .ok d →
      ∃ u, exec (.rsFix r) s = .next u ∧ EndsOk s u ∧ WritesRQ s u d.msg (d.par.take s.arg0) ∧
        u.lenOf .r = s.lenOf .a - s.arg0 ∧ u.lenOf .q = s.arg0 ∧ u.res.r0 = 1 ∧ u.res.r1.toNat = d.count ∧
        KeepsRes23 s u) ∧
    ∀ c, rsDecode t k recv eras = .error c →
      ∃ u, exec (.rsFix r) s = .next u ∧ EndsWith c s u ∧ WritesRQ s u [] [] ∧ u.res.r0 = 0 ∧ u.res.r1 = 0 ∧
        KeepsRes23 s u

/-! ### The Puncture Codec -/

/-- The properties of the codec: `puncture` keeps length and places, `depuncture` undoes the removal of the marks, the
encoder is linear from a zero register and continues from its register (R197). -/
def Obligations.PunctureCodecProperties : Prop :=
  (∀ (p : SchedSlot) (bits : List Nat), (∀ b ∈ bits, b < 2) →
    (puncture p bits).length = bits.length ∧
    (∀ i, i < bits.length →
      ((puncture p bits)[i]? = some 2 ↔ p.pattern.getLsbD (i % p.period) = false) ∧
      (p.pattern.getLsbD (i % p.period) = true → (puncture p bits)[i]? = bits[i]?)) ∧
    depuncture p ((puncture p bits).filter fun b => b != 2) bits.length = puncture p bits) ∧
  (∀ (tapsA tapsB K : Nat) (xs ys : List Nat), xs.length = ys.length → (∀ b ∈ xs, b < 2) → (∀ b ∈ ys, b < 2) →
    (convEncode tapsA tapsB K 0 (xorLists xs ys)).1 =
      xorLists (convEncode tapsA tapsB K 0 xs).1 (convEncode tapsA tapsB K 0 ys).1) ∧
  ∀ (tapsA tapsB K init : Nat) (xs ys : List Nat),
    (convEncode tapsA tapsB K init (xs ++ ys)).1 =
      (convEncode tapsA tapsB K init xs).1 ++
        (convEncode tapsA tapsB K (convEncode tapsA tapsB K init xs).2 ys).1

/-- The encoder's register after `n` bits holds the newest bit at bit 0 and the initial value shifted up, and each input
bit gives two output bits, the inner products of the register after it with the two tap masks (R190). -/
def Obligations.EncoderRegisterBits : Prop :=
  ∀ (tapsA tapsB K init : Nat) (bits : List Nat), init < 2 ^ K → (∀ b ∈ bits, b < 2) →
    let reg := fun n : Nat => (convEncode tapsA tapsB K init (bits.take n)).2
    let product := fun taps n : Nat => ((List.range K).filter fun j => taps.testBit j && (reg n).testBit j).length % 2
    (∀ n j, n ≤ bits.length → j < K →
      (reg n).testBit j = if j < n then bits.getD (n - 1 - j) 0 == 1 else init.testBit (j - n)) ∧
    (∀ n, n ≤ bits.length → reg n < 2 ^ K) ∧
    (convEncode tapsA tapsB K init bits).1.length = 2 * bits.length ∧
    ∀ n, n < bits.length →
      (convEncode tapsA tapsB K init bits).1[2 * n]? = some (product tapsA (n + 1)) ∧
      (convEncode tapsA tapsB K init bits).1[2 * n + 1]? = some (product tapsB (n + 1))

/-- `CV.ENC` on legal operands completes with the output bits in `R` and the register in `RES[0]`, and changes nothing
else: the core keeps no encoder register (R42, R191). -/
def Obligations.EncodeStreamCompletes : Prop :=
  ∀ s : State, 1 ≤ s.arg3 → s.arg3 ≤ CV_MAXK → s.arg0 < 2 ^ s.arg3 → s.arg1 < 2 ^ s.arg3 → s.arg2 < 2 ^ s.arg3 →
    2 * s.lenOf .a ≤ VLEN → (∀ x ∈ s.vec .a, x < 2) →
    ∃ t, exec .cvEnc s = .next t ∧ EndsOk s t ∧ WritesR s t (convEncode s.arg0 s.arg1 s.arg3 s.arg2 (s.vec .a)).1 ∧
      t.lenOf .r = 2 * s.lenOf .a ∧ t.res.r0.toNat = (convEncode s.arg0 s.arg1 s.arg3 s.arg2 (s.vec .a)).2 ∧
      KeepsRes123 s t

/-- `PN.PUNC` and `PN.DEPUNC` on a valid schedule and legal operands complete with their stream in `R`, of the length of
the input and of `L`, and change nothing else (R194, R196). -/
def Obligations.PunctureCommandsComplete : Prop :=
  ∀ (s : State) (p : Nat) (hp : p < NPS), s.sched[p].valid = true → (∀ x ∈ s.vec .a, x < 2) →
    (s.lenOf .a ≤ VLEN →
      ∃ t, exec (.pnPunc p) s = .next t ∧ EndsOk s t ∧ t.res = s.res ∧ WritesR s t (puncture s.sched[p] (s.vec .a)) ∧
        t.lenOf .r = s.lenOf .a) ∧
    (s.arg0 ≤ VLEN → s.lenOf .a = ((List.range s.arg0).filter s.sched[p].keeps).length →
      ∃ t, exec (.pnDepunc p) s = .next t ∧ EndsOk s t ∧ t.res = s.res ∧
        WritesR s t (depuncture s.sched[p] (s.vec .a) s.arg0) ∧ t.lenOf .r = s.arg0)

/-! ### The Burst Framer and the housekeeping commands -/

/-- Bit `j` of `REV8[v]` is bit `7 - j` of `v`, so the table is its own inverse (R41, R207); the normalisation reverses
each group of eight cells, is its own inverse, and does nothing when not asked to (R206, R207). -/
def Obligations.ReversalIsInvolutive : Prop :=
  (∀ v : Symbol, rev8 (rev8 v) = v ∧ ∀ j, j < 8 → (rev8 v).getLsbD j = v.getLsbD (7 - j)) ∧
  ∀ bits : List Nat, (∀ b ∈ bits, b < 2) → normalize bits 0 = bits ∧
    (bits.length % 8 = 0 →
      (normalize bits 1).length = bits.length ∧
      (∀ g j, 8 * g + 7 < bits.length → j < 8 → (normalize bits 1)[8 * g + j]? = bits[8 * g + 7 - j]?) ∧
      normalize (normalize bits 1) 1 = bits)

/-- The concatenated sub-streams are a permutation of the input: sub-stream `k` starts after those before it, its element
`n` is input element `k + n S`, and every input element is found there again (R209, R210). -/
def Obligations.DeinterleavePermutes : Prop :=
  ∀ (v : List Nat) (S : Nat), 1 ≤ S →
    (deinterleave v S).Perm v ∧ (deinterleave v S).length = v.length ∧
    (∀ k n, k < S → n < streamLen v.length S k → k + n * S < v.length ∧
      (deinterleave v S)[streamStart v.length S k + n]? = v[k + n * S]?) ∧
    ∀ i, i < v.length → i / S < streamLen v.length S (i % S) ∧
      (deinterleave v S)[streamStart v.length S (i % S) + i / S]? = v[i]?

/-- The checksum: the folded sum is 0 exactly when every word is and is otherwise the sum modulo 65535 in 1..65535;
flipping one bit changes the checksum; appending it gives the checksum 0 (R211, R213). -/
def Obligations.ChecksumProperties : Prop :=
  ∀ words : List Nat, (∀ x ∈ words, x < 2 ^ 16) →
    csum16 words < 2 ^ 16 ∧ (csum16 words = 0xFFFF ↔ ∀ x ∈ words, x = 0) ∧
    (0xFFFF - csum16 words) % 65535 = words.sum % 65535 ∧
    (∀ i k, i < words.length → k < 16 → csum16 (words.set i (words.getD i 0 ^^^ 2 ^ k)) ≠ csum16 words) ∧
    csum16 (words ++ [csum16 words]) = 0

/-- `FR.NORM` and `FR.DEINT` on legal operands complete with their stream in `R`, of the input's length, and `FR.DEINT`
with the length of sub-stream 0 in `RES[0]`; nothing else changes (R206, R209). -/
def Obligations.FramerStreamsComplete : Prop :=
  ∀ s : State, s.lenOf .a ≤ VLEN →
    (s.arg0 ≤ 1 → (s.arg0 = 1 → s.lenOf .a % 8 = 0) → (∀ x ∈ s.vec .a, x < 2) →
      ∃ t, exec .frNorm s = .next t ∧ EndsOk s t ∧ t.res = s.res ∧ WritesR s t (normalize (s.vec .a) s.arg0) ∧
        t.lenOf .r = s.lenOf .a) ∧
    (1 ≤ s.arg0 → s.arg0 ≤ VLEN → s.arg1 ≤ s.lenOf .a →
      ∃ t, exec .frDeint s = .next t ∧ EndsOk s t ∧ WritesR s t (deinterleave (s.vec .a) s.arg0) ∧
        t.lenOf .r = s.lenOf .a ∧ t.res.r0.toNat = (s.lenOf .a + s.arg0 - 1) / s.arg0 ∧ KeepsRes123 s t)

/-- `FR.CSUM16` and `FR.REV8` on legal operands complete with their value in `RES[0]` and change nothing else (R208,
R212). -/
def Obligations.FramerScalarsComplete : Prop :=
  ∀ s : State,
    (s.lenOf .a ≤ VLEN → ∃ t, exec .frCsum16 s = .next t ∧ OnlyRes0 s t (csum16 (s.vec .a))) ∧
    (s.arg0 ≤ 255 → ∃ t, exec .frRev8 s = .next t ∧
      OnlyRes0 s t ((List.range 8).map fun j => if s.arg0.testBit j then 2 ^ (7 - j) else 0).sum)

/-- `SYS.NOP` completes in every state: `COND` becomes `OK` and nothing else changes (R226). -/
def Obligations.NopCompletes : Prop :=
  ∀ s : State, ∃ t, exec .sysNop s = .next t ∧ t.status.cond = .ok ∧ { t with status := s.status } = s ∧
    EndsOk s t ∧ KeepsControl s t

/-- `BUF.COPY` on legal operands completes: the cells read before any write, the destination's cells from `count` on and
every other buffer unchanged, also where source and destination are one (R227). -/
def Obligations.CopyCompletes : Prop :=
  ∀ (s : State) (src dst : BufId), bufOfNumber s.arg0 = some src → bufOfNumber s.arg1 = some dst →
    dst.isInput = true → s.arg2 ≤ VLEN → s.arg3 ≤ VLEN → s.lenOf src ≤ VLEN → s.arg2 + s.arg3 ≤ s.lenOf src →
    ∃ t, exec .bufCopy s = .next t ∧ EndsOk s t ∧ KeepsControl s t ∧ KeepsTables s t ∧ t.res = s.res ∧
      t.lenOf dst = s.arg3 ∧ (∀ i, i < s.arg3 → readCell t dst i = readCell s src (s.arg2 + i)) ∧
      (∀ i, s.arg3 ≤ i → readCell t dst i = readCell s dst i) ∧
      ∀ bid, bid ≠ dst → KeepsBuffer s t bid
end

