-- ==== Sys2Proof/Laws/State.lean ====
section
/-! SUPPORT. One lemma per field per update, so that no later proof unfolds a record update. -/

namespace Sys2Proof.Machine

/-! ### `endWith` -/

@[simp] theorem endWith_status (k : Cond) (s : State) : (endWith k s).status = s.status.endWith k := rfl
@[simp] theorem endWith_evlog (k : Cond) (s : State) : (endWith k s).evlog = evlogRecord k s.evlog := rfl
@[simp] theorem endWith_cmdseq (k : Cond) (s : State) : (endWith k s).cmdseq = s.cmdseq := rfl
@[simp] theorem endWith_lastcmd (k : Cond) (s : State) : (endWith k s).lastcmd = s.lastcmd := rfl
@[simp] theorem endWith_arg (k : Cond) (s : State) : (endWith k s).arg = s.arg := rfl
@[simp] theorem endWith_res (k : Cond) (s : State) : (endWith k s).res = s.res := rfl
@[simp] theorem endWith_a (k : Cond) (s : State) : (endWith k s).a = s.a := rfl
@[simp] theorem endWith_b (k : Cond) (s : State) : (endWith k s).b = s.b := rfl
@[simp] theorem endWith_c (k : Cond) (s : State) : (endWith k s).c = s.c := rfl
@[simp] theorem endWith_r (k : Cond) (s : State) : (endWith k s).r = s.r := rfl
@[simp] theorem endWith_q (k : Cond) (s : State) : (endWith k s).q = s.q := rfl
@[simp] theorem endWith_fields (k : Cond) (s : State) : (endWith k s).fields = s.fields := rfl
@[simp] theorem endWith_bch (k : Cond) (s : State) : (endWith k s).bch = s.bch := rfl
@[simp] theorem endWith_rs (k : Cond) (s : State) : (endWith k s).rs = s.rs := rfl
@[simp] theorem endWith_sched (k : Cond) (s : State) : (endWith k s).sched = s.sched := rfl
@[simp] theorem endWith_pending (k : Cond) (s : State) : (endWith k s).pending = s.pending := rfl
@[simp] theorem endWith_busData (k : Cond) (s : State) : (endWith k s).busData = s.busData := rfl
@[simp] theorem endWith_fresh (k : Cond) (s : State) : (endWith k s).fresh = s.fresh := rfl

/-! ### `accept` -/

@[simp] theorem accept_status (w : Word) (s : State) : (accept w s).status = { s.status with done := true } := rfl
@[simp] theorem accept_evlog (w : Word) (s : State) : (accept w s).evlog = s.evlog := rfl
@[simp] theorem accept_cmdseq (w : Word) (s : State) : (accept w s).cmdseq = s.cmdseq + 1 := rfl
@[simp] theorem accept_lastcmd (w : Word) (s : State) : (accept w s).lastcmd = w := rfl
@[simp] theorem accept_arg (w : Word) (s : State) : (accept w s).arg = s.arg := rfl
@[simp] theorem accept_res (w : Word) (s : State) : (accept w s).res = s.res := rfl
@[simp] theorem accept_a (w : Word) (s : State) : (accept w s).a = s.a := rfl
@[simp] theorem accept_b (w : Word) (s : State) : (accept w s).b = s.b := rfl
@[simp] theorem accept_c (w : Word) (s : State) : (accept w s).c = s.c := rfl
@[simp] theorem accept_r (w : Word) (s : State) : (accept w s).r = s.r := rfl
@[simp] theorem accept_q (w : Word) (s : State) : (accept w s).q = s.q := rfl
@[simp] theorem accept_fields (w : Word) (s : State) : (accept w s).fields = s.fields := rfl
@[simp] theorem accept_bch (w : Word) (s : State) : (accept w s).bch = s.bch := rfl
@[simp] theorem accept_rs (w : Word) (s : State) : (accept w s).rs = s.rs := rfl
@[simp] theorem accept_sched (w : Word) (s : State) : (accept w s).sched = s.sched := rfl
@[simp] theorem accept_pending (w : Word) (s : State) : (accept w s).pending = s.pending := rfl
@[simp] theorem accept_busData (w : Word) (s : State) : (accept w s).busData = s.busData := rfl
@[simp] theorem accept_fresh (w : Word) (s : State) : (accept w s).fresh = s.fresh := rfl

/-! ### `setRes0` -/

@[simp] theorem setRes0_status (v : Nat) (s : State) : (s.setRes0 v).status = s.status := rfl
@[simp] theorem setRes0_evlog (v : Nat) (s : State) : (s.setRes0 v).evlog = s.evlog := rfl
@[simp] theorem setRes0_cmdseq (v : Nat) (s : State) : (s.setRes0 v).cmdseq = s.cmdseq := rfl
@[simp] theorem setRes0_lastcmd (v : Nat) (s : State) : (s.setRes0 v).lastcmd = s.lastcmd := rfl
@[simp] theorem setRes0_arg (v : Nat) (s : State) : (s.setRes0 v).arg = s.arg := rfl
@[simp] theorem setRes0_res (v : Nat) (s : State) : (s.setRes0 v).res = { s.res with r0 := word32 v } := rfl
@[simp] theorem setRes0_a (v : Nat) (s : State) : (s.setRes0 v).a = s.a := rfl
@[simp] theorem setRes0_b (v : Nat) (s : State) : (s.setRes0 v).b = s.b := rfl
@[simp] theorem setRes0_c (v : Nat) (s : State) : (s.setRes0 v).c = s.c := rfl
@[simp] theorem setRes0_r (v : Nat) (s : State) : (s.setRes0 v).r = s.r := rfl
@[simp] theorem setRes0_q (v : Nat) (s : State) : (s.setRes0 v).q = s.q := rfl
@[simp] theorem setRes0_fields (v : Nat) (s : State) : (s.setRes0 v).fields = s.fields := rfl
@[simp] theorem setRes0_bch (v : Nat) (s : State) : (s.setRes0 v).bch = s.bch := rfl
@[simp] theorem setRes0_rs (v : Nat) (s : State) : (s.setRes0 v).rs = s.rs := rfl
@[simp] theorem setRes0_sched (v : Nat) (s : State) : (s.setRes0 v).sched = s.sched := rfl
@[simp] theorem setRes0_pending (v : Nat) (s : State) : (s.setRes0 v).pending = s.pending := rfl
@[simp] theorem setRes0_busData (v : Nat) (s : State) : (s.setRes0 v).busData = s.busData := rfl
@[simp] theorem setRes0_fresh (v : Nat) (s : State) : (s.setRes0 v).fresh = s.fresh := rfl

/-! ### `setRes1` -/

@[simp] theorem setRes1_status (v : Nat) (s : State) : (s.setRes1 v).status = s.status := rfl
@[simp] theorem setRes1_evlog (v : Nat) (s : State) : (s.setRes1 v).evlog = s.evlog := rfl
@[simp] theorem setRes1_cmdseq (v : Nat) (s : State) : (s.setRes1 v).cmdseq = s.cmdseq := rfl
@[simp] theorem setRes1_lastcmd (v : Nat) (s : State) : (s.setRes1 v).lastcmd = s.lastcmd := rfl
@[simp] theorem setRes1_arg (v : Nat) (s : State) : (s.setRes1 v).arg = s.arg := rfl
@[simp] theorem setRes1_res (v : Nat) (s : State) : (s.setRes1 v).res = { s.res with r1 := word32 v } := rfl
@[simp] theorem setRes1_a (v : Nat) (s : State) : (s.setRes1 v).a = s.a := rfl
@[simp] theorem setRes1_b (v : Nat) (s : State) : (s.setRes1 v).b = s.b := rfl
@[simp] theorem setRes1_c (v : Nat) (s : State) : (s.setRes1 v).c = s.c := rfl
@[simp] theorem setRes1_r (v : Nat) (s : State) : (s.setRes1 v).r = s.r := rfl
@[simp] theorem setRes1_q (v : Nat) (s : State) : (s.setRes1 v).q = s.q := rfl
@[simp] theorem setRes1_fields (v : Nat) (s : State) : (s.setRes1 v).fields = s.fields := rfl
@[simp] theorem setRes1_bch (v : Nat) (s : State) : (s.setRes1 v).bch = s.bch := rfl
@[simp] theorem setRes1_rs (v : Nat) (s : State) : (s.setRes1 v).rs = s.rs := rfl
@[simp] theorem setRes1_sched (v : Nat) (s : State) : (s.setRes1 v).sched = s.sched := rfl
@[simp] theorem setRes1_pending (v : Nat) (s : State) : (s.setRes1 v).pending = s.pending := rfl
@[simp] theorem setRes1_busData (v : Nat) (s : State) : (s.setRes1 v).busData = s.busData := rfl
@[simp] theorem setRes1_fresh (v : Nat) (s : State) : (s.setRes1 v).fresh = s.fresh := rfl

/-! ### `setRes2` -/

@[simp] theorem setRes2_status (v : Nat) (s : State) : (s.setRes2 v).status = s.status := rfl
@[simp] theorem setRes2_evlog (v : Nat) (s : State) : (s.setRes2 v).evlog = s.evlog := rfl
@[simp] theorem setRes2_cmdseq (v : Nat) (s : State) : (s.setRes2 v).cmdseq = s.cmdseq := rfl
@[simp] theorem setRes2_lastcmd (v : Nat) (s : State) : (s.setRes2 v).lastcmd = s.lastcmd := rfl
@[simp] theorem setRes2_arg (v : Nat) (s : State) : (s.setRes2 v).arg = s.arg := rfl
@[simp] theorem setRes2_res (v : Nat) (s : State) : (s.setRes2 v).res = { s.res with r2 := word32 v } := rfl
@[simp] theorem setRes2_a (v : Nat) (s : State) : (s.setRes2 v).a = s.a := rfl
@[simp] theorem setRes2_b (v : Nat) (s : State) : (s.setRes2 v).b = s.b := rfl
@[simp] theorem setRes2_c (v : Nat) (s : State) : (s.setRes2 v).c = s.c := rfl
@[simp] theorem setRes2_r (v : Nat) (s : State) : (s.setRes2 v).r = s.r := rfl
@[simp] theorem setRes2_q (v : Nat) (s : State) : (s.setRes2 v).q = s.q := rfl
@[simp] theorem setRes2_fields (v : Nat) (s : State) : (s.setRes2 v).fields = s.fields := rfl
@[simp] theorem setRes2_bch (v : Nat) (s : State) : (s.setRes2 v).bch = s.bch := rfl
@[simp] theorem setRes2_rs (v : Nat) (s : State) : (s.setRes2 v).rs = s.rs := rfl
@[simp] theorem setRes2_sched (v : Nat) (s : State) : (s.setRes2 v).sched = s.sched := rfl
@[simp] theorem setRes2_pending (v : Nat) (s : State) : (s.setRes2 v).pending = s.pending := rfl
@[simp] theorem setRes2_busData (v : Nat) (s : State) : (s.setRes2 v).busData = s.busData := rfl
@[simp] theorem setRes2_fresh (v : Nat) (s : State) : (s.setRes2 v).fresh = s.fresh := rfl

/-! ### `setBuf` -/

@[simp] theorem setBuf_status (s : State) (bid : BufId) (x : Buffer) : (s.setBuf bid x).status = s.status := by cases bid <;> rfl
@[simp] theorem setBuf_evlog (s : State) (bid : BufId) (x : Buffer) : (s.setBuf bid x).evlog = s.evlog := by cases bid <;> rfl
@[simp] theorem setBuf_cmdseq (s : State) (bid : BufId) (x : Buffer) : (s.setBuf bid x).cmdseq = s.cmdseq := by cases bid <;> rfl
@[simp] theorem setBuf_lastcmd (s : State) (bid : BufId) (x : Buffer) : (s.setBuf bid x).lastcmd = s.lastcmd := by cases bid <;> rfl
@[simp] theorem setBuf_arg (s : State) (bid : BufId) (x : Buffer) : (s.setBuf bid x).arg = s.arg := by cases bid <;> rfl
@[simp] theorem setBuf_res (s : State) (bid : BufId) (x : Buffer) : (s.setBuf bid x).res = s.res := by cases bid <;> rfl
@[simp] theorem setBuf_fields (s : State) (bid : BufId) (x : Buffer) : (s.setBuf bid x).fields = s.fields := by cases bid <;> rfl
@[simp] theorem setBuf_bch (s : State) (bid : BufId) (x : Buffer) : (s.setBuf bid x).bch = s.bch := by cases bid <;> rfl
@[simp] theorem setBuf_rs (s : State) (bid : BufId) (x : Buffer) : (s.setBuf bid x).rs = s.rs := by cases bid <;> rfl
@[simp] theorem setBuf_sched (s : State) (bid : BufId) (x : Buffer) : (s.setBuf bid x).sched = s.sched := by cases bid <;> rfl
@[simp] theorem setBuf_pending (s : State) (bid : BufId) (x : Buffer) : (s.setBuf bid x).pending = s.pending := by cases bid <;> rfl
@[simp] theorem setBuf_busData (s : State) (bid : BufId) (x : Buffer) : (s.setBuf bid x).busData = s.busData := by cases bid <;> rfl
@[simp] theorem setBuf_fresh (s : State) (bid : BufId) (x : Buffer) : (s.setBuf bid x).fresh = s.fresh := by cases bid <;> rfl

/-- The buffer just written. -/
@[simp] theorem buf_setBuf_same (s : State) (bid : BufId) (x : Buffer) : (s.setBuf bid x).buf bid = x := by
  cases bid <;> rfl

/-- Every other buffer. -/
theorem buf_setBuf_other (s : State) {bid other : BufId} (x : Buffer) (h : other ≠ bid) :
    (s.setBuf bid x).buf other = s.buf other := by
  cases bid <;> cases other <;> first | rfl | exact absurd rfl h

/-! ### `writeCell` -/

@[simp] theorem writeCell_status (s : State) (bid : BufId) (i : Nat) (v : CellWord) : (writeCell s bid i v).status = s.status := by
  cases bid <;> rfl
@[simp] theorem writeCell_evlog (s : State) (bid : BufId) (i : Nat) (v : CellWord) : (writeCell s bid i v).evlog = s.evlog := by
  cases bid <;> rfl
@[simp] theorem writeCell_cmdseq (s : State) (bid : BufId) (i : Nat) (v : CellWord) : (writeCell s bid i v).cmdseq = s.cmdseq := by
  cases bid <;> rfl
@[simp] theorem writeCell_lastcmd (s : State) (bid : BufId) (i : Nat) (v : CellWord) : (writeCell s bid i v).lastcmd = s.lastcmd := by
  cases bid <;> rfl
@[simp] theorem writeCell_arg (s : State) (bid : BufId) (i : Nat) (v : CellWord) : (writeCell s bid i v).arg = s.arg := by
  cases bid <;> rfl
@[simp] theorem writeCell_res (s : State) (bid : BufId) (i : Nat) (v : CellWord) : (writeCell s bid i v).res = s.res := by
  cases bid <;> rfl
@[simp] theorem writeCell_fields (s : State) (bid : BufId) (i : Nat) (v : CellWord) : (writeCell s bid i v).fields = s.fields := by
  cases bid <;> rfl
@[simp] theorem writeCell_bch (s : State) (bid : BufId) (i : Nat) (v : CellWord) : (writeCell s bid i v).bch = s.bch := by
  cases bid <;> rfl
@[simp] theorem writeCell_rs (s : State) (bid : BufId) (i : Nat) (v : CellWord) : (writeCell s bid i v).rs = s.rs := by
  cases bid <;> rfl
@[simp] theorem writeCell_sched (s : State) (bid : BufId) (i : Nat) (v : CellWord) : (writeCell s bid i v).sched = s.sched := by
  cases bid <;> rfl
@[simp] theorem writeCell_pending (s : State) (bid : BufId) (i : Nat) (v : CellWord) : (writeCell s bid i v).pending = s.pending := by
  cases bid <;> rfl
@[simp] theorem writeCell_busData (s : State) (bid : BufId) (i : Nat) (v : CellWord) : (writeCell s bid i v).busData = s.busData := by
  cases bid <;> rfl
@[simp] theorem writeCell_fresh (s : State) (bid : BufId) (i : Nat) (v : CellWord) : (writeCell s bid i v).fresh = s.fresh := by
  cases bid <;> rfl

/-! ### `setLen` -/

@[simp] theorem setLen_status (s : State) (bid : BufId) (v : Word) : (setLen s bid v).status = s.status := by
  cases bid <;> rfl
@[simp] theorem setLen_evlog (s : State) (bid : BufId) (v : Word) : (setLen s bid v).evlog = s.evlog := by
  cases bid <;> rfl
@[simp] theorem setLen_cmdseq (s : State) (bid : BufId) (v : Word) : (setLen s bid v).cmdseq = s.cmdseq := by
  cases bid <;> rfl
@[simp] theorem setLen_lastcmd (s : State) (bid : BufId) (v : Word) : (setLen s bid v).lastcmd = s.lastcmd := by
  cases bid <;> rfl
@[simp] theorem setLen_arg (s : State) (bid : BufId) (v : Word) : (setLen s bid v).arg = s.arg := by
  cases bid <;> rfl
@[simp] theorem setLen_res (s : State) (bid : BufId) (v : Word) : (setLen s bid v).res = s.res := by
  cases bid <;> rfl
@[simp] theorem setLen_fields (s : State) (bid : BufId) (v : Word) : (setLen s bid v).fields = s.fields := by
  cases bid <;> rfl
@[simp] theorem setLen_bch (s : State) (bid : BufId) (v : Word) : (setLen s bid v).bch = s.bch := by
  cases bid <;> rfl
@[simp] theorem setLen_rs (s : State) (bid : BufId) (v : Word) : (setLen s bid v).rs = s.rs := by
  cases bid <;> rfl
@[simp] theorem setLen_sched (s : State) (bid : BufId) (v : Word) : (setLen s bid v).sched = s.sched := by
  cases bid <;> rfl
@[simp] theorem setLen_pending (s : State) (bid : BufId) (v : Word) : (setLen s bid v).pending = s.pending := by
  cases bid <;> rfl
@[simp] theorem setLen_busData (s : State) (bid : BufId) (v : Word) : (setLen s bid v).busData = s.busData := by
  cases bid <;> rfl
@[simp] theorem setLen_fresh (s : State) (bid : BufId) (v : Word) : (setLen s bid v).fresh = s.fresh := by
  cases bid <;> rfl

/-! ### `writeOut` -/

@[simp] theorem writeOut_status (bid : BufId) (vs : List Nat) (s : State) : (writeOut bid vs s).status = s.status := by
  cases bid <;> rfl
@[simp] theorem writeOut_evlog (bid : BufId) (vs : List Nat) (s : State) : (writeOut bid vs s).evlog = s.evlog := by
  cases bid <;> rfl
@[simp] theorem writeOut_cmdseq (bid : BufId) (vs : List Nat) (s : State) : (writeOut bid vs s).cmdseq = s.cmdseq := by
  cases bid <;> rfl
@[simp] theorem writeOut_lastcmd (bid : BufId) (vs : List Nat) (s : State) : (writeOut bid vs s).lastcmd = s.lastcmd := by
  cases bid <;> rfl
@[simp] theorem writeOut_arg (bid : BufId) (vs : List Nat) (s : State) : (writeOut bid vs s).arg = s.arg := by
  cases bid <;> rfl
@[simp] theorem writeOut_res (bid : BufId) (vs : List Nat) (s : State) : (writeOut bid vs s).res = s.res := by
  cases bid <;> rfl
@[simp] theorem writeOut_fields (bid : BufId) (vs : List Nat) (s : State) : (writeOut bid vs s).fields = s.fields := by
  cases bid <;> rfl
@[simp] theorem writeOut_bch (bid : BufId) (vs : List Nat) (s : State) : (writeOut bid vs s).bch = s.bch := by
  cases bid <;> rfl
@[simp] theorem writeOut_rs (bid : BufId) (vs : List Nat) (s : State) : (writeOut bid vs s).rs = s.rs := by
  cases bid <;> rfl
@[simp] theorem writeOut_sched (bid : BufId) (vs : List Nat) (s : State) : (writeOut bid vs s).sched = s.sched := by
  cases bid <;> rfl
@[simp] theorem writeOut_pending (bid : BufId) (vs : List Nat) (s : State) : (writeOut bid vs s).pending = s.pending := by
  cases bid <;> rfl
@[simp] theorem writeOut_busData (bid : BufId) (vs : List Nat) (s : State) : (writeOut bid vs s).busData = s.busData := by
  cases bid <;> rfl
@[simp] theorem writeOut_fresh (bid : BufId) (vs : List Nat) (s : State) : (writeOut bid vs s).fresh = s.fresh + 1 := by
  cases bid <;> rfl

/-! ### `copyInto` -/

@[simp] theorem copyInto_status (bid : BufId) (vs : List CellWord) (s : State) : (copyInto bid vs s).status = s.status := by
  cases bid <;> rfl
@[simp] theorem copyInto_evlog (bid : BufId) (vs : List CellWord) (s : State) : (copyInto bid vs s).evlog = s.evlog := by
  cases bid <;> rfl
@[simp] theorem copyInto_cmdseq (bid : BufId) (vs : List CellWord) (s : State) : (copyInto bid vs s).cmdseq = s.cmdseq := by
  cases bid <;> rfl
@[simp] theorem copyInto_lastcmd (bid : BufId) (vs : List CellWord) (s : State) : (copyInto bid vs s).lastcmd = s.lastcmd := by
  cases bid <;> rfl
@[simp] theorem copyInto_arg (bid : BufId) (vs : List CellWord) (s : State) : (copyInto bid vs s).arg = s.arg := by
  cases bid <;> rfl
@[simp] theorem copyInto_res (bid : BufId) (vs : List CellWord) (s : State) : (copyInto bid vs s).res = s.res := by
  cases bid <;> rfl
@[simp] theorem copyInto_fields (bid : BufId) (vs : List CellWord) (s : State) : (copyInto bid vs s).fields = s.fields := by
  cases bid <;> rfl
@[simp] theorem copyInto_bch (bid : BufId) (vs : List CellWord) (s : State) : (copyInto bid vs s).bch = s.bch := by
  cases bid <;> rfl
@[simp] theorem copyInto_rs (bid : BufId) (vs : List CellWord) (s : State) : (copyInto bid vs s).rs = s.rs := by
  cases bid <;> rfl
@[simp] theorem copyInto_sched (bid : BufId) (vs : List CellWord) (s : State) : (copyInto bid vs s).sched = s.sched := by
  cases bid <;> rfl
@[simp] theorem copyInto_pending (bid : BufId) (vs : List CellWord) (s : State) : (copyInto bid vs s).pending = s.pending := by
  cases bid <;> rfl
@[simp] theorem copyInto_busData (bid : BufId) (vs : List CellWord) (s : State) : (copyInto bid vs s).busData = s.busData := by
  cases bid <;> rfl
@[simp] theorem copyInto_fresh (bid : BufId) (vs : List CellWord) (s : State) : (copyInto bid vs s).fresh = s.fresh := by
  cases bid <;> rfl

/-! ### The buffers behind the updates that do not touch them -/

@[simp] theorem endWith_buf (k : Cond) (s : State) (bid : BufId) : (endWith k s).buf bid = s.buf bid := by
  cases bid <;> rfl
@[simp] theorem accept_buf (w : Word) (s : State) (bid : BufId) : (accept w s).buf bid = s.buf bid := by
  cases bid <;> rfl
@[simp] theorem setRes0_buf (v : Nat) (s : State) (bid : BufId) : (s.setRes0 v).buf bid = s.buf bid := by
  cases bid <;> rfl
@[simp] theorem setRes1_buf (v : Nat) (s : State) (bid : BufId) : (s.setRes1 v).buf bid = s.buf bid := by
  cases bid <;> rfl
@[simp] theorem setRes2_buf (v : Nat) (s : State) (bid : BufId) : (s.setRes2 v).buf bid = s.buf bid := by
  cases bid <;> rfl

/-! ### `STATUS` -/

@[simp] theorem status_endWith_cond (k : Cond) (x : Status) : (x.endWith k).cond = k := rfl
@[simp] theorem status_endWith_done (k : Cond) (x : Status) : (x.endWith k).done = x.done := rfl
@[simp] theorem status_endWith_halted (k : Cond) (x : Status) : (x.endWith k).halted = (x.halted || k.fatal) := rfl
@[simp] theorem evlogRecord_ok (e : Word) : evlogRecord .ok e = e := rfl

end Sys2Proof.Machine
end

