-- ==== Sys2Proof/Laws/Ops.lean ====
section
/-! SUPPORT. For each shared operation, everything it can answer. -/

namespace Sys2Proof.Machine

open Sys2Proof.Config

/-- A raised condition answers exactly the ended state. -/
@[simp] theorem raise_eq_next {k : Cond} {s t : State} : raise k s = .next t ↔ t = endWith k s := by
  simp [raise, eq_comm]

/-- A completed command answers exactly the state ended with `OK`. -/
@[simp] theorem complete_eq_next {s t : State} : complete s = .next t ↔ t = endWith .ok s := by
  simp [complete, eq_comm]

/-- What a command with a slot to use can answer: the slot is valid and the rest of the command answered, or it is not,
or there is no such slot. -/
theorem withBuilt_cases {α : Type} {n : Nat} {slots : Vector α n} {valid : α → Bool} {i : Nat} {s t : State}
    {go : α → Result} (h : withBuilt slots valid i s go = .next t) :
    (∃ hi : i < n, valid slots[i] = true ∧ go slots[i] = .next t) ∨
      (∃ hi : i < n, valid slots[i] = false ∧ t = endWith .tableNotBuilt s) ∨
      (n ≤ i ∧ t = endWith .operandRange s) := by
  unfold withBuilt at h
  split at h
  · rename_i hi
    split at h
    · rename_i hv
      exact .inl ⟨hi, hv, h⟩
    · rename_i hv
      exact .inr (.inl ⟨hi, by simpa using hv, raise_eq_next.1 h⟩)
  · rename_i hi
    exact .inr (.inr ⟨Nat.le_of_not_lt hi, raise_eq_next.1 h⟩)

/-- A command on a valid slot is the rest of the command. -/
theorem withBuilt_valid {α : Type} {n : Nat} {slots : Vector α n} {valid : α → Bool} {i : Nat} {s : State}
    {go : α → Result} (hi : i < n) (hv : valid slots[i] = true) : withBuilt slots valid i s go = go slots[i] := by
  simp [withBuilt, hi, hv]

/-- What a build command can answer in steps 3 and 4. -/
theorem withUnbuilt_cases {α : Type} {n : Nat} {slots : Vector α n} {valid : α → Bool} {i : Nat} {s t : State}
    {go : i < n → Result} (h : withUnbuilt slots valid i s go = .next t) :
    (∃ hi : i < n, valid slots[i] = false ∧ go hi = .next t) ∨
      (∃ hi : i < n, valid slots[i] = true ∧ t = endWith .configError s) ∨
      (n ≤ i ∧ t = endWith .operandRange s) := by
  unfold withUnbuilt at h
  split at h
  · rename_i hi
    split at h
    · rename_i hv
      exact .inr (.inl ⟨hi, hv, raise_eq_next.1 h⟩)
    · rename_i hv
      exact .inl ⟨hi, by simpa using hv, h⟩
  · rename_i hi
    exact .inr (.inr ⟨Nat.le_of_not_lt hi, raise_eq_next.1 h⟩)

/-- A build command on a slot that is not valid is the rest of the command. -/
theorem withUnbuilt_invalid {α : Type} {n : Nat} {slots : Vector α n} {valid : α → Bool} {i : Nat} {s : State}
    {go : i < n → Result} (hi : i < n) (hv : valid slots[i] = false) : withUnbuilt slots valid i s go = go hi := by
  simp [withUnbuilt, hi, hv]

/-- What a Reed-Solomon command can answer in steps 3 and 4. -/
theorem withCode_cases {r : Nat} {s t : State} {go : RsSlot → FieldSlot → Result} (h : withCode r s go = .next t) :
    (∃ hr : r < NRS, s.rs[r].valid = true ∧ go s.rs[r] s.fields[s.rs[r].field] = .next t) ∨
      (∃ hr : r < NRS, s.rs[r].valid = false ∧ t = endWith .tableNotBuilt s) ∨
      (NRS ≤ r ∧ t = endWith .operandRange s) :=
  withBuilt_cases h

/-- The word of a bit pattern is written as 32 bits. -/
theorem word32_toNat (n : Nat) (h : n < 2 ^ 32) : (word32 n).toNat = n := by
  rw [word32, BitVec.toNat_ofNat, Nat.mod_eq_of_lt h]

/-- `vec` has as many elements as the length register says. -/
@[simp] theorem vec_length (s : State) (bid : BufId) : (s.vec bid).length = s.lenOf bid := by
  simp [State.vec, slice]

/-- An element of `vec` is the cell at its place. -/
theorem vec_getElem (s : State) (bid : BufId) (i : Nat) (h : i < (s.vec bid).length) :
    (s.vec bid)[i] = (readCell s bid i).toNat := by
  simp [State.vec, slice]

/-- Two sequences added have the length of the shorter. -/
@[simp] theorem xorLists_length (p q : List Nat) : (xorLists p q).length = min p.length q.length := by
  simp [xorLists]

/-- The length of a sum of polynomials (R113). -/
@[simp] theorem polyAdd_length (p q : List Nat) : (polyAdd p q).length = max p.length q.length := by
  simp [polyAdd]
  omega

/-- The length of a product of polynomials (R113). -/
theorem polyMul_length (t : FieldSlot) (p q : List Nat) (h : q ≠ []) :
    (polyMul t p q).length = p.length + q.length - 1 := by
  have hq : 1 ≤ q.length := List.length_pos_iff.2 h
  induction p with
  | nil => simp [polyMul]
  | cons a p ih => simp [polyMul, ih]; omega

/-- A bit string has the length asked for. -/
@[simp] theorem bitsOf_length (w L : Nat) : (bitsOf w L).length = L := by simp [bitsOf]

end Sys2Proof.Machine
end

