-- ==== Sys2Proof/Laws/Memory.lean ====
section
/-! SUPPORT. The memory: reading after a write, and the canonical form, which every memory operation keeps. -/

namespace Sys2Proof.Machine

open Sys2Proof.Config

/-! ### One listing -/

/-- The cell just written. -/
@[simp] theorem cellAt_insertCell_same (l : List (Nat × CellWord)) (i : Nat) (v : CellWord) :
    cellAt (insertCell i v l) i = some v := by
  induction l with
  | nil => simp [insertCell, cellAt]
  | cons c rest ih =>
    obtain ⟨k, u⟩ := c
    simp only [insertCell]
    split
    · simp [cellAt]
    · split
      · simp [cellAt]
      · rename_i h
        simp [cellAt, ih, Ne.symm h]

/-- Every other cell. -/
theorem cellAt_insertCell_other (l : List (Nat × CellWord)) {i j : Nat} (v : CellWord) (h : j ≠ i) :
    cellAt (insertCell i v l) j = cellAt l j := by
  induction l with
  | nil => simp [insertCell, cellAt, Ne.symm h]
  | cons c rest ih =>
    obtain ⟨k, u⟩ := c
    simp only [insertCell]
    split
    · simp [cellAt, Ne.symm h]
    · split
      · rename_i hk
        subst hk
        simp [cellAt, Ne.symm h]
      · simp [cellAt, ih]

/-- A member of a listing with a cell written is that cell or was listed. -/
theorem mem_insertCell {l : List (Nat × CellWord)} {i : Nat} {v : CellWord} {c : Nat × CellWord}
    (h : c ∈ insertCell i v l) : c = (i, v) ∨ c ∈ l := by
  induction l with
  | nil => simpa [insertCell] using h
  | cons d rest ih =>
    obtain ⟨k, u⟩ := d
    simp only [insertCell] at h
    split at h
    · simpa using h
    · split at h
      · rcases List.mem_cons.1 h with h | h
        · exact .inl h
        · exact .inr (List.mem_cons_of_mem _ h)
      · rcases List.mem_cons.1 h with h | h
        · exact .inr (by simp [h])
        · rcases ih h with h | h
          · exact .inl h
          · exact .inr (List.mem_cons_of_mem _ h)

/-- Writing a cell keeps the indices strictly rising. -/
theorem insertCell_pairwise {l : List (Nat × CellWord)} (i : Nat) (v : CellWord)
    (h : l.Pairwise fun c d => c.1 < d.1) : (insertCell i v l).Pairwise fun c d => c.1 < d.1 := by
  induction l with
  | nil => simp [insertCell]
  | cons d rest ih =>
    obtain ⟨k, u⟩ := d
    obtain ⟨hd, hrest⟩ := List.pairwise_cons.1 h
    simp only [insertCell]
    split
    · rename_i hik
      refine List.pairwise_cons.2 ⟨fun c hc => ?_, h⟩
      rcases List.mem_cons.1 hc with rfl | hc
      · exact hik
      · exact Nat.lt_trans hik (hd c hc)
    · split
      · rename_i hik
        subst hik
        exact List.pairwise_cons.2 ⟨hd, hrest⟩
      · refine List.pairwise_cons.2 ⟨fun c hc => ?_, ih hrest⟩
        rcases mem_insertCell hc with rfl | hc
        · simp only; omega
        · exact hd c hc

/-- The indices of a run of cells. -/
theorem cellsFrom_indices (i : Nat) (vs : List CellWord) :
    (cellsFrom i vs).map Prod.fst = List.range' i vs.length := by
  induction vs generalizing i with
  | nil => rfl
  | cons v vs ih => simp [cellsFrom, ih, List.range'_succ]

/-- A member of a run of cells lies in its range. -/
theorem mem_cellsFrom {i : Nat} {vs : List CellWord} {c : Nat × CellWord} (h : c ∈ cellsFrom i vs) :
    i ≤ c.1 ∧ c.1 < i + vs.length := by
  have : c.1 ∈ (cellsFrom i vs).map Prod.fst := List.mem_map_of_mem h
  rw [cellsFrom_indices] at this
  simpa using this

/-- A run of cells is strictly rising. -/
theorem cellsFrom_pairwise (i : Nat) (vs : List CellWord) : (cellsFrom i vs).Pairwise fun c d => c.1 < d.1 := by
  induction vs generalizing i with
  | nil => simp [cellsFrom]
  | cons v vs ih => exact List.pairwise_cons.2 ⟨fun c hc => (mem_cellsFrom hc).1, ih (i + 1)⟩

/-- What a run of cells holds. -/
theorem cellAt_cellsFrom (i j : Nat) (vs : List CellWord) :
    cellAt (cellsFrom i vs) j = if i ≤ j then vs[j - i]? else none := by
  induction vs generalizing i with
  | nil => simp [cellsFrom, cellAt]
  | cons v vs ih =>
    simp only [cellsFrom, cellAt, ih]
    by_cases h : i = j
    · subst h; simp
    · by_cases h2 : i ≤ j
      · have : j - i = (j - (i + 1)) + 1 := by omega
        simp [h, h2, show i + 1 ≤ j by omega, this]
      · simp [h, h2, show ¬ i + 1 ≤ j by omega]

/-! ### Reading after a write (20_memory.md R63) -/

/-- The cell the host wrote. -/
theorem readCell_writeCell_same (s : State) (bid : BufId) (i : Nat) (v : CellWord) :
    readCell (writeCell s bid i v) bid i = v := by
  simp [readCell, writeCell]

/-- Every other cell of the same buffer. -/
theorem readCell_writeCell_other (s : State) (bid : BufId) {i j : Nat} (v : CellWord) (h : j ≠ i) :
    readCell (writeCell s bid i v) bid j = readCell s bid j := by
  simp [readCell, writeCell, cellAt_insertCell_other _ v h]

/-- Every cell of every other buffer. -/
theorem readCell_setBuf_other (s : State) {bid other : BufId} (x : Buffer) (h : other ≠ bid) (j : Nat) :
    readCell (s.setBuf bid x) other j = readCell s other j := by
  simp [readCell, buf_setBuf_other s x h]

/-- A cell below the new length of an output buffer. -/
theorem readCell_writeOut (s : State) (bid : BufId) (vs : List Nat) (i : Nat) (h : i < vs.length) :
    readCell (writeOut bid vs s) bid i = BitVec.ofNat 16 vs[i] := by
  have hb : (writeOut bid vs s).buf bid = { cells := cellsFrom 0 (vs.map (BitVec.ofNat 16)), seed := s.fresh, len := word32 vs.length } := by
    cases bid <;> rfl
  simp [readCell, hb, cellAt_cellsFrom, h]

/-- Every cell of the buffers a command does not write. -/
theorem readCell_writeOut_other (s : State) {bid other : BufId} (vs : List Nat) (h : other ≠ bid) (i : Nat) :
    readCell (writeOut bid vs s) other i = readCell s other i := by
  cases bid <;> cases other <;> first | rfl | exact absurd rfl h

/-! ### The canonical form -/

/-- The canonical form, buffer by buffer. -/
theorem memory_wf_iff (s : State) : Memory.wf s ↔ ∀ bid, (s.buf bid).wf := by
  constructor
  · rintro ⟨ha, hb, hc, hr, hq⟩ bid
    cases bid <;> assumption
  · intro h
    exact ⟨h .a, h .b, h .c, h .r, h .q⟩

/-- A buffer in canonical form may replace any. -/
theorem setBuf_wf {s : State} {bid : BufId} {x : Buffer} (h : Memory.wf s) (hx : x.wf) : Memory.wf (s.setBuf bid x) := by
  rw [memory_wf_iff] at h ⊢
  intro other
  by_cases hb : other = bid
  · subst hb; simpa using hx
  · rw [buf_setBuf_other s x hb]; exact h other

/-- Writing a cell of the buffer keeps the canonical form. -/
theorem writeCell_wf {s : State} {bid : BufId} {i : Nat} {v : CellWord} (h : Memory.wf s) (hi : i < VLEN) :
    Memory.wf (writeCell s bid i v) := by
  have hb := (memory_wf_iff s).1 h bid
  refine setBuf_wf h ⟨insertCell_pairwise i v hb.1, fun c hc => ?_⟩
  rcases mem_insertCell hc with rfl | hc
  · exact hi
  · exact hb.2 c hc

/-- Writing a length register keeps the canonical form. -/
theorem setLen_wf {s : State} {bid : BufId} {v : Word} (h : Memory.wf s) : Memory.wf (setLen s bid v) :=
  setBuf_wf h ((memory_wf_iff s).1 h bid)

/-- A run of cells from 0 on is in canonical form if it fits the buffer. -/
theorem cellsFrom_wf (vs : List CellWord) (seed : Nat) (len : Word) (h : vs.length ≤ VLEN) :
    Buffer.wf { cells := cellsFrom 0 vs, seed := seed, len := len } :=
  ⟨cellsFrom_pairwise 0 vs, fun c hc => by have := (mem_cellsFrom hc).2; simp only at *; omega⟩

/-- A command's output keeps the canonical form if it fits the buffer. -/
theorem writeOut_wf {s : State} {bid : BufId} {vs : List Nat} (h : Memory.wf s) (hv : vs.length ≤ VLEN) :
    Memory.wf (writeOut bid vs s) :=
  setBuf_wf (s := s) h (cellsFrom_wf (vs.map (BitVec.ofNat 16)) s.fresh (word32 vs.length) (by simpa using hv))

/-- `BUF.COPY` keeps the canonical form if the copied cells fit the buffer. -/
theorem copyInto_wf {s : State} {bid : BufId} {vs : List CellWord} (h : Memory.wf s) (hv : vs.length ≤ VLEN) :
    Memory.wf (copyInto bid vs s) := by
  have hb := (memory_wf_iff s).1 h bid
  refine setBuf_wf h ⟨List.pairwise_append.2 ⟨cellsFrom_pairwise 0 vs, hb.1.filter _, fun c hc d hd => ?_⟩, fun c hc => ?_⟩
  · have h1 := (mem_cellsFrom hc).2
    have h2 : vs.length ≤ d.1 := by simpa using (List.mem_filter.1 hd).2
    omega
  · rcases List.mem_append.1 hc with hc | hc
    · have := (mem_cellsFrom hc).2; omega
    · exact hb.2 c (List.mem_filter.1 hc).1

/-- Ending a command does not touch the memory. -/
theorem endWith_wf {k : Cond} {s : State} : Memory.wf (endWith k s) ↔ Memory.wf s := Iff.rfl

/-- Entering the reset state leaves the memory in canonical form. -/
theorem resetInput_wf (s : State) : Memory.wf (resetInput s) := by
  refine ⟨?_, ?_, ?_, ?_, ?_⟩ <;> simp [resetInput, Buffer.empty, Buffer.wf]

/-- The reset state's memory is in canonical form. -/
theorem reset_wf : Memory.wf State.reset := by decide

end Sys2Proof.Machine
end

