-- ==== Sys2Proof/Laws/Frames.lean ====
section
/-! SUPPORT. What each shared operation does, in the terms the statements use: how a command ends, which buffers,
results and slots an output leaves alone, and what one host access answers. -/

namespace Sys2Proof.Machine

open Sys2Proof.Config

/-! ### How a command ends -/

/-- The bits of a single 1 shifted left. -/
theorem one_shiftLeft_bit (k n : Nat) (h : n < 32) : ((1 : Word) <<< k).getLsbD n = decide (n = k) := by
  have : (decide (n < 32) && !decide (n < k) && decide (n - k = 0)) = decide (n = k) := by
    rw [Bool.eq_iff_iff]
    simp [h]
    omega
  rw [BitVec.getLsbD_shiftLeft]
  simpa using this

/-- Every bit of the log after a command. -/
theorem evlogRecord_bit (k : Cond) (e : Word) (n : Nat) (h : n < 32) :
    (evlogRecord k e).getLsbD n = (e.getLsbD n || decide (k ≠ .ok ∧ n = k.code)) := by
  unfold evlogRecord
  by_cases hk : k = .ok
  · simp [hk]
  · rw [if_neg hk, BitVec.getLsbD_or, one_shiftLeft_bit _ _ h]
    simp [hk]

/-- Every bit of the log after the host's write. -/
theorem evlogClear_bit (v e : Word) (n : Nat) (h : n < 32) :
    (evlogClear v e).getLsbD n = (e.getLsbD n && (!v.getLsbD n || decide (n = 7))) := by
  rw [evlogClear, BitVec.getLsbD_and, BitVec.getLsbD_not, BitVec.getLsbD_and, BitVec.getLsbD_not, one_shiftLeft_bit _ _ h]
  simp only [h, decide_true, Bool.true_and, Bool.not_and, Bool.not_not]
  rfl

/-- A condition ends a command as R243 says, whatever the command has written before. -/
theorem endsWith_endWith {k : Cond} {s u : State} (hs : u.status = s.status) (he : u.evlog = s.evlog) :
    EndsWith k s (endWith k u) where
  cond := rfl
  halted := by
    have : k.fatal = decide (k = .configError) := by cases k <;> rfl
    simp [Status.endWith, hs, this]
  evlog n hn := by rw [endWith_evlog, evlogRecord_bit k u.evlog n hn, he]

/-- A completed command ends with `OK`. -/
theorem endsOk_endWith {s u : State} (hs : u.status = s.status) (he : u.evlog = s.evlog) :
    EndsOk s (endWith .ok u) where
  cond := rfl
  halted := by simp [Status.endWith, hs, Cond.fatal]
  evlog := by simp [evlogRecord, he]

/-- Ending a command touches no register that no command writes. -/
theorem keepsControl_endWith {k : Cond} {s u : State} (h : KeepsControl s u) : KeepsControl s (endWith k u) where
  arg := h.arg
  cmdseq := h.cmdseq
  lastcmd := h.lastcmd
  done := h.done
  pending := h.pending
  busData := h.busData

/-- Ending a command touches no slot. -/
theorem keepsTables_endWith {k : Cond} {s u : State} (h : KeepsTables s u) : KeepsTables s (endWith k u) where
  fields := h.fields
  bch := h.bch
  rs := h.rs
  sched := h.sched

/-- Ending a command touches no buffer. -/
@[simp] theorem readCell_endWith (k : Cond) (s : State) (bid : BufId) (i : Nat) :
    readCell (endWith k s) bid i = readCell s bid i := by
  cases bid <;> rfl

/-- Ending a command touches no buffer. -/
@[simp] theorem buf_endWith (k : Cond) (s : State) (bid : BufId) : (endWith k s).buf bid = s.buf bid := by
  cases bid <;> rfl

/-- Ending a command touches no length register. -/
@[simp] theorem lenOf_endWith (k : Cond) (s : State) (bid : BufId) : (endWith k s).lenOf bid = s.lenOf bid := by
  cases bid <;> rfl

/-- Nothing has changed yet. -/
theorem keepsControl_refl (s : State) : KeepsControl s s := ⟨rfl, rfl, rfl, rfl, rfl, rfl⟩

/-- Nothing has changed yet. -/
theorem keepsTables_refl (s : State) : KeepsTables s s := ⟨rfl, rfl, rfl, rfl⟩

/-! ### Scalar results -/

/-- A scalar result that fits 32 bits is what a command with `RES[0]` as its only output leaves. -/
theorem onlyRes0_setRes0 {s : State} {v : Nat} (h : v < 2 ^ 32) : OnlyRes0 s (endWith .ok (s.setRes0 v)) v where
  ends := endsOk_endWith rfl rfl
  res0 := word32_toNat v h
  others := ⟨rfl, rfl, rfl⟩
  memory bid := ⟨by cases bid <;> rfl, fun i => by cases bid <;> rfl⟩
  tables := ⟨rfl, rfl, rfl, rfl⟩
  control := ⟨rfl, rfl, rfl, rfl, rfl, rfl⟩

/-! ### Outputs -/

/-- The length register of an output that fits 32 bits. -/
theorem lenOf_writeOut (s : State) (bid : BufId) (vs : List Nat) (h : vs.length < 2 ^ 32) :
    (writeOut bid vs s).lenOf bid = vs.length := by
  have hb : ((writeOut bid vs s).buf bid).len = word32 vs.length := by cases bid <;> rfl
  rw [State.lenOf, hb, word32_toNat _ h]

/-- The length register of every other buffer. -/
theorem lenOf_writeOut_other (s : State) {bid other : BufId} (vs : List Nat) (h : other ≠ bid) :
    (writeOut bid vs s).lenOf other = s.lenOf other := by
  cases bid <;> cases other <;> first | rfl | exact absurd rfl h

/-- What an output buffer holds after a command has written it. -/
theorem holdsVector_writeOut (s : State) (bid : BufId) (vs : List Nat) (h : vs.length < 2 ^ 32)
    (hv : ∀ v ∈ vs, v < 2 ^ 16) : HoldsVector (writeOut bid vs s) bid vs where
  len := lenOf_writeOut s bid vs h
  cells i hi := by
    rw [readCell_writeOut s bid vs i hi, BitVec.toNat_ofNat]
    exact Nat.mod_eq_of_lt (hv _ (List.getElem_mem hi))

/-- Every buffer but the one written. -/
theorem keepsBuffer_writeOut (s : State) {bid other : BufId} (vs : List Nat) (h : other ≠ bid) :
    KeepsBuffer s (writeOut bid vs s) other where
  len := lenOf_writeOut_other s vs h
  cells i := readCell_writeOut_other s vs h i

/-- What a command with `R` as its only buffer output leaves, whichever results it also writes and however it ends. -/
theorem writesR_endWith {k : Cond} {s u : State} {vs : List Nat} (h : vs.length < 2 ^ 32) (hv : ∀ v ∈ vs, v < 2 ^ 16)
    (hu : ∃ res, u = { writeOut .r vs s with res := res }) : WritesR s (endWith k u) vs := by
  obtain ⟨res, rfl⟩ := hu
  have ho := holdsVector_writeOut s .r vs h hv
  refine ⟨⟨ho.len, ho.cells⟩, fun bid hb => ?_, ⟨rfl, rfl, rfl, rfl⟩, ⟨rfl, rfl, rfl, rfl, rfl, rfl⟩⟩
  cases bid <;> first | exact ⟨rfl, fun i => rfl⟩ | exact absurd rfl hb

/-- What a command with `R` and `Q` as its buffer outputs leaves, whichever results it also writes and however it
ends. -/
theorem writesRQ_endWith {k : Cond} {s u : State} {xs ys : List Nat} (hx : xs.length < 2 ^ 32)
    (hxv : ∀ v ∈ xs, v < 2 ^ 16) (hy : ys.length < 2 ^ 32) (hyv : ∀ v ∈ ys, v < 2 ^ 16)
    (hu : ∃ res, u = { writeOut .q ys (writeOut .r xs s) with res := res }) : WritesRQ s (endWith k u) xs ys := by
  obtain ⟨res, rfl⟩ := hu
  have hr := holdsVector_writeOut s .r xs hx hxv
  have hq := holdsVector_writeOut (writeOut .r xs s) .q ys hy hyv
  refine ⟨⟨hr.len, hr.cells⟩, ⟨hq.len, hq.cells⟩, fun bid hb => ?_, ⟨rfl, rfl, rfl, rfl⟩, ⟨rfl, rfl, rfl, rfl, rfl, rfl⟩⟩
  cases bid <;> first | exact ⟨rfl, fun i => rfl⟩ | exact absurd hb (by decide)

/-- A cell below the copied count. -/
theorem readCell_copyInto (s : State) (bid : BufId) (vs : List CellWord) (i : Nat) (h : i < vs.length) :
    readCell (copyInto bid vs s) bid i = vs[i] := by
  have hc : cellAt (cellsFrom 0 vs ++ (s.buf bid).cells.filter fun c => vs.length ≤ c.1) i = some vs[i] := by
    have ha : ∀ l m : List (Nat × CellWord), ∀ v, cellAt l i = some v → cellAt (l ++ m) i = some v := by
      intro l m v hl
      induction l with
      | nil => simp [cellAt] at hl
      | cons c l ih =>
        obtain ⟨k, u⟩ := c
        simp only [List.cons_append, cellAt] at hl ⊢
        split
        · rename_i hk; simpa [hk] using hl
        · rename_i hk; exact ih (by simpa [hk] using hl)
    exact ha _ _ _ (by simp [cellAt_cellsFrom, h])
  simp only [readCell, copyInto, buf_setBuf_same]
  rw [hc]

/-- A cell of the destination at or beyond the copied count. -/
theorem readCell_copyInto_rest (s : State) (bid : BufId) (vs : List CellWord) (i : Nat) (h : vs.length ≤ i) :
    readCell (copyInto bid vs s) bid i = readCell s bid i := by
  have ha : ∀ l m : List (Nat × CellWord), (∀ c ∈ l, c.1 < i) → cellAt (l ++ m) i = cellAt m i := by
    intro l m hl
    induction l with
    | nil => rfl
    | cons c l ih =>
      obtain ⟨k, u⟩ := c
      have hk : k ≠ i := Nat.ne_of_lt (hl (k, u) (by simp))
      simpa [cellAt, hk] using ih fun c hc => hl c (by simp [hc])
  have hf : ∀ l : List (Nat × CellWord), cellAt (l.filter fun c => vs.length ≤ c.1) i = cellAt l i := by
    intro l
    induction l with
    | nil => rfl
    | cons c l ih =>
      obtain ⟨k, u⟩ := c
      by_cases hk : vs.length ≤ k
      · simp [hk, cellAt, ih]
      · have : k ≠ i := by omega
        simp [hk, cellAt, ih, this]
  have hc : cellAt (cellsFrom 0 vs ++ (s.buf bid).cells.filter fun c => vs.length ≤ c.1) i =
      cellAt (s.buf bid).cells i := by
    rw [ha _ _ fun c hc => by have := (mem_cellsFrom hc).2; omega, hf]
  simp only [readCell, copyInto, buf_setBuf_same]
  rw [hc]

/-! ### The answers of the larger operations -/

/-- What `BCH.REPAIR` and `BCH.LOOKUP` can answer once their checks have passed. -/
theorem writeRepair_eq_next {bits : List Nat} {synd : Nat} {found : Option (Nat × Nat)} {s t : State} :
    writeRepair bits synd found s = .next t ↔
      (∃ count w, found = some (count, w) ∧
        t = endWith .ok (((writeOut .r (bitsOf w bits.length) s).setRes0 count).setRes1 synd)) ∨
      (found = none ∧ t = endWith .uncorrectable (((writeOut .r bits s).setRes0 sentinel).setRes1 synd)) := by
  cases found with
  | none => simp [writeRepair]
  | some p =>
    obtain ⟨count, w⟩ := p
    simp [writeRepair]

/-- A step performs the oldest access. -/
theorem step_of_pending {s : State} {x : HostAccess} {rest : List HostAccess} (h : s.pending = x :: rest) :
    step s = perform x { s with pending := rest } := by
  simp [step, h]

/-- An idle step. -/
theorem step_of_idle {s : State} (h : s.pending = []) : step s = .next s := by
  simp [step, h]

/-- What a write to `CMD` answers. -/
theorem perform_cmd (s : State) (w : Word) :
    perform (.write cmdIndex w) s =
      if s.status.halted then .next s
      else match decode w with
        | .ok i => exec i (accept w s)
        | .error _ => raise .illegalCommand (accept w s) := rfl

end Sys2Proof.Machine
end

