-- ==== Sys2Proof/Laws/PerInstr.lean ====
section
/-! SUPPORT. The family `EncodeRow`: the command word of every well-formed instruction matches the row of the opcode
table that the instruction stands for, `(w and mask) = match` (30_encoding.md R84). One lemma per constructor. -/

namespace Sys2Proof.Laws

/-- The word of a well-formed instruction matches its row (R84). -/
def EncodeRow.Statement (i : Instr) : Prop :=
  i.wellFormed = true → encode i &&& i.rowMask = i.rowMatch

/-- The words of the rows with a selector, for every selector the field admits. -/
theorem selector_word_matches (opc n : Nat) (ho : opc < 256) (hn : n < 16) :
    word32 (opc + 256 * n) &&& 0xFFFFF0FF = word32 opc := by
  have h : ∀ o : Fin 256, ∀ k : Fin 16, word32 (o + 256 * k) &&& 0xFFFFF0FF = word32 o := by decide +kernel
  exact h ⟨opc, ho⟩ ⟨n, hn⟩

/-- Every operation code fits the eight bits of `OPC`. -/
theorem opcode_lt (i : Instr) : i.opcode < 256 := by
  cases i <;> simp [Instr.opcode]

/-- The rows with a selector. -/
theorem selector_row {i : Instr} {n : Nat} (hs : i.selector = some n) : EncodeRow.Statement i := by
  intro hw
  have hn : n < 16 := by simpa [Instr.wellFormed, hs] using hw
  have h := selector_word_matches i.opcode n (opcode_lt i) hn
  simpa [encode, Instr.rowMask, Instr.rowMatch, hs] using h

theorem EncodeRow.sysNop : EncodeRow.Statement .sysNop := fun _ => by decide
theorem EncodeRow.gfBuild (n : Nat) : EncodeRow.Statement (.gfBuild n) := selector_row rfl
theorem EncodeRow.gfAdd (n : Nat) : EncodeRow.Statement (.gfAdd n) := selector_row rfl
theorem EncodeRow.gfMul (n : Nat) : EncodeRow.Statement (.gfMul n) := selector_row rfl
theorem EncodeRow.gfDiv (n : Nat) : EncodeRow.Statement (.gfDiv n) := selector_row rfl
theorem EncodeRow.gfExp (n : Nat) : EncodeRow.Statement (.gfExp n) := selector_row rfl
theorem EncodeRow.gfLog (n : Nat) : EncodeRow.Statement (.gfLog n) := selector_row rfl
theorem EncodeRow.gfPadd (n : Nat) : EncodeRow.Statement (.gfPadd n) := selector_row rfl
theorem EncodeRow.gfPmul (n : Nat) : EncodeRow.Statement (.gfPmul n) := selector_row rfl
theorem EncodeRow.bchBuild (n : Nat) : EncodeRow.Statement (.bchBuild n) := selector_row rfl
theorem EncodeRow.bchDiv : EncodeRow.Statement .bchDiv := fun _ => by decide
theorem EncodeRow.bchRepair : EncodeRow.Statement .bchRepair := fun _ => by decide
theorem EncodeRow.bchLookup (n : Nat) : EncodeRow.Statement (.bchLookup n) := selector_row rfl
theorem EncodeRow.bchSynrd (n : Nat) : EncodeRow.Statement (.bchSynrd n) := selector_row rfl
theorem EncodeRow.rsCfg (n : Nat) : EncodeRow.Statement (.rsCfg n) := selector_row rfl
theorem EncodeRow.rsGpoly (n : Nat) : EncodeRow.Statement (.rsGpoly n) := selector_row rfl
theorem EncodeRow.rsEnc (n : Nat) : EncodeRow.Statement (.rsEnc n) := selector_row rfl
theorem EncodeRow.rsSynd (n : Nat) : EncodeRow.Statement (.rsSynd n) := selector_row rfl
theorem EncodeRow.rsEloc (n : Nat) : EncodeRow.Statement (.rsEloc n) := selector_row rfl
theorem EncodeRow.rsEpos (n : Nat) : EncodeRow.Statement (.rsEpos n) := selector_row rfl
theorem EncodeRow.rsCorr (n : Nat) : EncodeRow.Statement (.rsCorr n) := selector_row rfl
theorem EncodeRow.rsDec (n : Nat) : EncodeRow.Statement (.rsDec n) := selector_row rfl
theorem EncodeRow.rsCheck (n : Nat) : EncodeRow.Statement (.rsCheck n) := selector_row rfl
theorem EncodeRow.rsFix (n : Nat) : EncodeRow.Statement (.rsFix n) := selector_row rfl
theorem EncodeRow.cvEnc : EncodeRow.Statement .cvEnc := fun _ => by decide
theorem EncodeRow.pnCfg (n : Nat) : EncodeRow.Statement (.pnCfg n) := selector_row rfl
theorem EncodeRow.pnPunc (n : Nat) : EncodeRow.Statement (.pnPunc n) := selector_row rfl
theorem EncodeRow.pnDepunc (n : Nat) : EncodeRow.Statement (.pnDepunc n) := selector_row rfl
theorem EncodeRow.frNorm : EncodeRow.Statement .frNorm := fun _ => by decide
theorem EncodeRow.frDeint : EncodeRow.Statement .frDeint := fun _ => by decide
theorem EncodeRow.frCsum16 : EncodeRow.Statement .frCsum16 := fun _ => by decide
theorem EncodeRow.frRev8 : EncodeRow.Statement .frRev8 := fun _ => by decide
theorem EncodeRow.bufCopy : EncodeRow.Statement .bufCopy := fun _ => by decide

end Sys2Proof.Laws
end

