-- ==== Sys2Proof/Tests/Slice0.lean ====
section
/-! SUPPORT. Tests of one step each, on small states, and for every statement with hypotheses a state that meets them.
Expected values come from spec/95_test_vectors.md, from the examples of the rules, or from hand calculation in GF(4). -/

namespace Sys2Proof.Tests

set_option Elab.async false

open Sys2Proof Sys2Proof.Machine Sys2Proof.Config

/-! ### Small states -/

/-- GF(4), tables as V-GF-3 lists them. -/
def gf4 : FieldSlot :=
  { valid := true, m := 2, prim := 7, gen := 2, exp := [1, 2, 3, 1, 2, 3], log := [0, 1, 2] }

/-- The code (29, 7, 4) for one error, its table as the example of R133 lists it. -/
def bchOne : BchSlot where
  valid := true
  poly := 29
  n := 7
  synbits := 4
  maxErrors := 1
  syn := [(1, ⟨1, 1⟩), (2, ⟨1, 2⟩), (4, ⟨1, 4⟩), (7, ⟨1, 32⟩), (8, ⟨1, 8⟩), (13, ⟨1, 16⟩), (14, ⟨1, 64⟩)]

/-- The same code for two errors. -/
def bchTwo : BchSlot :=
  { valid := true, poly := 29, n := 7, synbits := 4, maxErrors := 2, syn := buildSyn 29 7 2 }

/-- A code over GF(4) with two parity symbols: `(x + 1)(x + 2) = x^2 + 3x + 2`. -/
def rs4 : RsSlot := { valid := true, field := 0, nsym := 2, fcr := 0, gen := 2, genpoly := [1, 3, 2] }

/-- The schedule of R193's example. -/
def schedule : SchedSlot := { valid := true, period := 3, pattern := 3 }

/-- An input buffer with cells 0 on listed. -/
def loaded (xs : List Nat) : Buffer :=
  { cells := cellsFrom 0 (xs.map (BitVec.ofNat 16)), seed := 0, len := word32 xs.length }

/-- A state with slot 0 of each kind (and BCH slot 1) built, operands and input buffers as given. -/
def demo (pending : List HostAccess) (x y z u : Nat) (a b c : List Nat) : State :=
  { State.reset with
    arg := { r0 := word32 x, r1 := word32 y, r2 := word32 z, r3 := word32 u }
    a := loaded a
    b := loaded b
    c := loaded c
    fields := #v[gf4, FieldSlot.empty]
    bch := #v[bchOne, bchTwo, BchSlot.empty, BchSlot.empty, BchSlot.empty, BchSlot.empty]
    rs := #v[rs4, RsSlot.empty, RsSlot.empty, RsSlot.empty]
    sched := #v[schedule, SchedSlot.empty, SchedSlot.empty, SchedSlot.empty]
    pending := pending }

/-- The same state halted, as a `ConfigError` leaves it. -/
def demoHalted (pending : List HostAccess) : State :=
  { demo pending 0 0 0 0 [] [] [] with
    status := { cond := .configError, done := true, halted := true }
    evlog := 0x80 }

/-- The small states are sound. -/
theorem demo_sound (pending : List HostAccess) (x y z u : Nat) (a b c : List Nat) (ha : a.length ≤ VLEN)
    (hb : b.length ≤ VLEN) (hc : c.length ≤ VLEN) : (demo pending x y z u a b c).Sound where
  memory :=
    ⟨cellsFrom_wf _ _ _ (by simpa using ha), cellsFrom_wf _ _ _ (by simpa using hb),
      cellsFrom_wf _ _ _ (by simpa using hc), (by decide : (Buffer.empty 0).wf),
      (by decide : (Buffer.empty 0).wf)⟩
  outputR := (by decide : (Buffer.empty 0).Filled)
  outputQ := (by decide : (Buffer.empty 0).Filled)
  fieldSlots := by
    show ∀ f : Fin NF, (#v[gf4, FieldSlot.empty] : Vector FieldSlot NF)[f].Sound
    decide +kernel
  bchSlots := by
    show ∀ i : Fin NBCH, (#v[bchOne, bchTwo, BchSlot.empty, BchSlot.empty, BchSlot.empty, BchSlot.empty] :
      Vector BchSlot NBCH)[i].Sound
    decide +kernel
  rsSlots := by
    show ∀ r : Fin NRS, (#v[rs4, RsSlot.empty, RsSlot.empty, RsSlot.empty] : Vector RsSlot NRS)[r].Sound
      #v[gf4, FieldSlot.empty]
    decide +kernel
  schedSlots := by
    show ∀ p : Fin NPS, (#v[schedule, SchedSlot.empty, SchedSlot.empty, SchedSlot.empty] :
      Vector SchedSlot NPS)[p].Sound
    decide +kernel
  logBits := (by decide : (0 : Word).getLsbD 0 = false ∧ (0 : Word).getLsbD 1 = false ∧ (0 : Word).toNat < 2 ^ 12)
  haltedLogged := (by decide : false = (0 : Word).getLsbD 7)
  neverParse := (by decide : Cond.ok ≠ .parseError)
  beforeFirst := fun _ => ⟨rfl, rfl, rfl, rfl⟩

/-- The next state, if there is one. -/
def after : Result → Option State
  | .next t => some t
  | .fault _ => none
  | .refused _ => none

/-- How a command ended. -/
def condOf (x : Result) : Option Cond := (after x).map fun t => t.status.cond

/-- `RES[0]` after a command. -/
def res0Of (x : Result) : Option Word := (after x).map fun t => t.res.r0

/-- What an output buffer holds after a command. -/
def vecOf (x : Result) (bid : BufId) : Option (List Nat) := (after x).map fun t => t.vec bid

/-! ### Well-formedness: the one check refuses a selector of five bits -/

theorem test_selector_16_is_ill_formed : (Instr.gfAdd 16).wellFormed = false := by decide
theorem test_selector_15_is_well_formed : (Instr.gfAdd 15).wellFormed = true := by decide

/-! ### Decoding: words written out from R80 and R83 -/

theorem test_decode_sysNop : decode 0x00000000 = .ok .sysNop := by decide
theorem test_decode_gfBuild : decode 0x00000101 = .ok (.gfBuild 1) := by decide
theorem test_decode_gfAdd : decode 0x00000002 = .ok (.gfAdd 0) := by decide
theorem test_decode_gfMul : decode 0x00000103 = .ok (.gfMul 1) := by decide
theorem test_decode_gfDiv : decode 0x00000004 = .ok (.gfDiv 0) := by decide
theorem test_decode_gfExp : decode 0x00000105 = .ok (.gfExp 1) := by decide
theorem test_decode_gfLog : decode 0x00000006 = .ok (.gfLog 0) := by decide
theorem test_decode_gfPadd : decode 0x00000008 = .ok (.gfPadd 0) := by decide
theorem test_decode_gfPmul : decode 0x00000109 = .ok (.gfPmul 1) := by decide
theorem test_decode_bchBuild : decode 0x00000510 = .ok (.bchBuild 5) := by decide
theorem test_decode_bchDiv : decode 0x00000011 = .ok .bchDiv := by decide
theorem test_decode_bchRepair : decode 0x00000012 = .ok .bchRepair := by decide
theorem test_decode_bchLookup : decode 0x00000213 = .ok (.bchLookup 2) := by decide
theorem test_decode_bchSynrd : decode 0x00000314 = .ok (.bchSynrd 3) := by decide
theorem test_decode_rsCfg : decode 0x00000320 = .ok (.rsCfg 3) := by decide
theorem test_decode_rsGpoly : decode 0x00000121 = .ok (.rsGpoly 1) := by decide
theorem test_decode_rsEnc : decode 0x00000222 = .ok (.rsEnc 2) := by decide
theorem test_decode_rsSynd : decode 0x00000323 = .ok (.rsSynd 3) := by decide
theorem test_decode_rsEloc : decode 0x00000024 = .ok (.rsEloc 0) := by decide
theorem test_decode_rsEpos : decode 0x00000125 = .ok (.rsEpos 1) := by decide
theorem test_decode_rsCorr : decode 0x00000226 = .ok (.rsCorr 2) := by decide
theorem test_decode_rsDec : decode 0x00000327 = .ok (.rsDec 3) := by decide
theorem test_decode_rsCheck : decode 0x00000028 = .ok (.rsCheck 0) := by decide
theorem test_decode_rsFix : decode 0x00000129 = .ok (.rsFix 1) := by decide
theorem test_decode_cvEnc : decode 0x00000030 = .ok .cvEnc := by decide
theorem test_decode_pnCfg : decode 0x00000131 = .ok (.pnCfg 1) := by decide
theorem test_decode_pnPunc : decode 0x00000232 = .ok (.pnPunc 2) := by decide
theorem test_decode_pnDepunc : decode 0x00000333 = .ok (.pnDepunc 3) := by decide
theorem test_decode_frNorm : decode 0x00000040 = .ok .frNorm := by decide
theorem test_decode_frDeint : decode 0x00000041 = .ok .frDeint := by decide
theorem test_decode_frCsum16 : decode 0x00000042 = .ok .frCsum16 := by decide
theorem test_decode_frRev8 : decode 0x00000043 = .ok .frRev8 := by decide
theorem test_decode_bufCopy : decode 0x00000050 = .ok .bufCopy := by decide
theorem test_decode_every_selector : decode 0x00000F03 = .ok (.gfMul 15) := by decide
theorem test_decode_unassigned_7 : decode 0x00000007 = .error (.unassignedOpcode 7) := by decide
theorem test_decode_unassigned_ff : decode 0x000000FF = .error (.unassignedOpcode 255) := by decide
theorem test_decode_selector_set : decode 0x00000150 = .error (.selectorSet 0x50) := by decide
theorem test_decode_zero_field_low : decode 0x00001003 = .error .zeroFieldSet := by decide
theorem test_decode_zero_field_high : decode 0x80000000 = .error .zeroFieldSet := by decide
theorem test_encode_gfMul : encode (.gfMul 1) = 0x00000103 := by decide
theorem test_decodeTableWord_short : decodeTableWord 8 0x103 = some (.gfMul 0) := by decide

/-! ### One command each -/

theorem test_sysNop : condOf (exec .sysNop (demoHalted [])) = some .ok := by decide +kernel
/-- V-GF-3. -/
theorem test_gfBuild : (after (exec (.gfBuild 1) (demo [] 7 2 2 0 [] [] []))).map (fun t => t.fields[1]) = some gf4 := by
  decide +kernel
/-- V-GF-4: 1 does not generate. -/
theorem test_gfBuild_not_generator :
    (after (exec (.gfBuild 1) (demo [] 7 1 2 0 [] [] []))).map (fun t => (t.status.word, t.evlog, t.fields[1].valid)) =
      some (0x207, 0x80, false) := by decide +kernel
theorem test_gfAdd : res0Of (exec (.gfAdd 0) (demo [] 3 2 0 0 [] [] [])) = some 1 := by decide +kernel
theorem test_gfAdd_range : condOf (exec (.gfAdd 0) (demo [] 3 4 0 0 [] [] [])) = some .operandRange := by
  decide +kernel
/-- V-GF-3. -/
theorem test_gfMul : res0Of (exec (.gfMul 0) (demo [] 3 3 0 0 [] [] [])) = some 2 := by decide +kernel
theorem test_gfMul_zero : res0Of (exec (.gfMul 0) (demo [] 0 3 0 0 [] [] [])) = some 0 := by decide +kernel
/-- V-GF-3. -/
theorem test_gfDiv : res0Of (exec (.gfDiv 0) (demo [] 1 3 0 0 [] [] [])) = some 2 := by decide +kernel
theorem test_gfDiv_zero_by_zero : condOf (exec (.gfDiv 0) (demo [] 0 0 0 0 [] [] [])) = some .divisionByZero := by
  decide +kernel
theorem test_gfExp : res0Of (exec (.gfExp 0) (demo [] 5 0 0 0 [] [] [])) = some 3 := by decide +kernel
theorem test_gfExp_range : condOf (exec (.gfExp 0) (demo [] 6 0 0 0 [] [] [])) = some .operandRange := by
  decide +kernel
theorem test_gfLog : res0Of (exec (.gfLog 0) (demo [] 3 0 0 0 [] [] [])) = some 2 := by decide +kernel
theorem test_gfLog_zero : condOf (exec (.gfLog 0) (demo [] 0 0 0 0 [] [] [])) = some .operandRange := by
  decide +kernel
/-- R115: the shorter operand at the low-order end. -/
theorem test_gfPadd : vecOf (exec (.gfPadd 0) (demo [] 0 0 0 0 [1, 2, 3] [1, 2] [])) .r = some [1, 3, 1] := by
  decide +kernel
/-- `(x + 1)(x + 2) = x^2 + 3x + 2`. -/
theorem test_gfPmul : vecOf (exec (.gfPmul 0) (demo [] 0 0 0 0 [1, 1] [1, 2] [])) .r = some [1, 3, 2] := by
  decide +kernel
theorem test_gfPmul_slot : condOf (exec (.gfPmul 1) (demo [] 0 0 0 0 [1, 1] [1, 2] [])) = some .tableNotBuilt := by
  decide +kernel
/-- The example of R133. -/
theorem test_bchBuild :
    (after (exec (.bchBuild 2) (demo [] 29 7 1 4 [] [] []))).map (fun t => t.bch[2]) = some bchOne := by decide +kernel
theorem test_bchBuild_again : condOf (exec (.bchBuild 0) (demo [] 29 7 1 4 [] [] [])) = some .configError := by
  decide +kernel
/-- The examples of R135. -/
theorem test_bchDiv : res0Of (exec .bchDiv (demo [] 29 0 0 0 [1, 0, 0, 0, 0, 0, 0] [] [])) = some 14 := by
  decide +kernel
theorem test_bchDiv_codeword : res0Of (exec .bchDiv (demo [] 29 0 0 0 [0, 0, 1, 1, 1, 0, 1] [] [])) = some 0 := by
  decide +kernel
/-- The examples of R136. -/
theorem test_bchRepair : vecOf (exec .bchRepair (demo [] 29 0 0 0 [0, 0, 1, 1, 0, 0, 0] [] [])) .r =
    some [0, 0, 1, 1, 1, 0, 1] := by decide +kernel
theorem test_bchRepair_fails : (after (exec .bchRepair (demo [] 29 0 0 0 [1, 0, 1, 1, 0, 0, 0] [] []))).map
    (fun t => (t.status.cond, t.res.r0, t.res.r1)) = some (.uncorrectable, 0xFFFFFFFF, 11) := by decide +kernel
/-- The examples of R138. -/
theorem test_bchLookup : (after (exec (.bchLookup 0) (demo [] 0 0 0 0 [0, 0, 0, 1, 0, 0, 0] [] []))).map
    (fun t => (t.vec .r, t.res.r0, t.res.r1)) = some ([0, 0, 0, 0, 0, 0, 0], 1, 8) := by decide +kernel
theorem test_bchLookup_empty : (after (exec (.bchLookup 0) (demo [] 0 0 0 0 [0, 0, 1, 1, 0, 0, 0] [] []))).map
    (fun t => (t.vec .r, t.res.r0, t.status.cond)) = some ([0, 0, 1, 1, 0, 0, 0], 0xFFFFFFFF, .uncorrectable) := by
  decide +kernel
/-- The examples of R139. -/
theorem test_bchSynrd : (after (exec (.bchSynrd 0) (demo [] 13 0 0 0 [] [] []))).map (fun t => t.res) =
    some { r0 := 1, r1 := 1, r2 := 16, r3 := 0 } := by decide +kernel
theorem test_bchSynrd_empty : (after (exec (.bchSynrd 0) (demo [] 3 0 0 0 [] [] []))).map (fun t => t.res) =
    some Quad.zero := by decide +kernel
theorem test_rsCfg : (after (exec (.rsCfg 1) (demo [] 0 2 0 2 [] [] []))).map (fun t => t.rs[1]) = some rs4 := by
  decide +kernel
theorem test_rsCfg_nsym : condOf (exec (.rsCfg 1) (demo [] 0 3 0 2 [] [] [])) = some .configError := by decide +kernel
theorem test_rsGpoly : vecOf (exec (.rsGpoly 0) (demo [] 0 0 0 0 [] [] [])) .r = some [1, 3, 2] := by decide +kernel
/-- `2 x^2 mod (x^2 + 3x + 2) = 2 (3x + 2) = x + 3`. -/
theorem test_rsEnc : vecOf (exec (.rsEnc 0) (demo [] 0 0 0 0 [2] [] [])) .r = some [2, 1, 3] := by decide +kernel
theorem test_rsEnc_long : condOf (exec (.rsEnc 0) (demo [] 0 0 0 0 [2, 2] [] [])) = some .lengthError := by
  decide +kernel
/-- `2 x^2 + x + 3` and `2 x^2 + x` at 1 and at 2. -/
theorem test_rsSynd : (after (exec (.rsSynd 0) (demo [] 0 0 0 0 [2, 1, 3] [] []))).map (fun t => (t.vec .r, t.res.r0)) =
    some ([0, 0], 1) := by decide +kernel
theorem test_rsSynd_error : (after (exec (.rsSynd 0) (demo [] 0 0 0 0 [2, 1, 0] [] []))).map
    (fun t => (t.vec .r, t.res.r0)) = some ([3, 3], 0) := by decide +kernel
/-- An error at the last place has the locator value 1, so the locator is `1 + x`. -/
theorem test_rsEloc : vecOf (exec (.rsEloc 0) (demo [] 3 0 0 0 [3, 3] [] [])) .r = some [1, 1] := by decide +kernel
theorem test_rsEpos : vecOf (exec (.rsEpos 0) (demo [] 3 0 0 0 [1, 1] [] [])) .r = some [2] := by decide +kernel
/-- A zero polynomial has more roots than its degree (R161). -/
theorem test_rsEpos_zero : condOf (exec (.rsEpos 0) (demo [] 3 0 0 0 [0] [] [])) = some .locatorNotFound := by
  decide +kernel
theorem test_rsCorr : vecOf (exec (.rsCorr 0) (demo [] 0 0 0 0 [2, 1, 0] [3, 3] [2])) .r = some [2, 1, 3] := by
  decide +kernel
theorem test_rsCorr_twice : condOf (exec (.rsCorr 0) (demo [] 0 0 0 0 [2, 1, 0] [3, 3] [2, 2])) =
    some .divisionByZero := by decide +kernel
theorem test_rsDec : (after (exec (.rsDec 0) (demo [] 0 0 0 0 [2, 1, 0] [] []))).map
    (fun t => (t.vec .r, t.vec .q, t.res.r0)) = some ([2], [1, 3], 1) := by decide +kernel
theorem test_rsDec_erasures : (after (exec (.rsDec 0) (demo [] 0 0 0 0 [0, 1, 0] [0, 2] []))).map
    (fun t => (t.vec .r, t.vec .q, t.res.r0)) = some ([2], [1, 3], 2) := by decide +kernel
theorem test_rsCheck : res0Of (exec (.rsCheck 0) (demo [] 1 1 0 0 [2, 1] [] [])) = some 1 := by decide +kernel
theorem test_rsCheck_mismatch : res0Of (exec (.rsCheck 0) (demo [] 1 1 0 0 [2, 2] [] [])) = some 0 := by
  decide +kernel
theorem test_rsFix : (after (exec (.rsFix 0) (demo [] 1 1 0 0 [2, 1] [] []))).map
    (fun t => (t.vec .r, t.vec .q, t.res.r0, t.res.r1)) = some ([2], [1], 1, 1) := by decide +kernel
/-- The examples of R191. -/
theorem test_cvEnc : (after (exec .cvEnc (demo [] 7 5 0 3 [1, 0, 0] [] []))).map (fun t => (t.vec .r, t.res.r0)) =
    some ([1, 1, 1, 0, 1, 1], 4) := by decide +kernel
theorem test_cvEnc_init : (after (exec .cvEnc (demo [] 7 5 5 3 [1, 1] [] []))).map (fun t => (t.vec .r, t.res.r0)) =
    some ([0, 1, 1, 0], 7) := by decide +kernel
theorem test_pnCfg : (after (exec (.pnCfg 1) (demo [] 3 3 0 0 [] [] []))).map (fun t => t.sched[1]) =
    some schedule := by decide +kernel
theorem test_pnCfg_pattern : condOf (exec (.pnCfg 1) (demo [] 3 8 0 0 [] [] [])) = some .configError := by
  decide +kernel
/-- The example of R194. -/
theorem test_pnPunc : vecOf (exec (.pnPunc 0) (demo [] 0 0 0 0 [1, 1, 0, 1, 0, 0, 1, 1] [] [])) .r =
    some [1, 1, 2, 1, 0, 2, 1, 1] := by decide +kernel
/-- The example of R196. -/
theorem test_pnDepunc : vecOf (exec (.pnDepunc 0) (demo [] 8 0 0 0 [1, 1, 1, 0, 1, 1] [] [])) .r =
    some [1, 1, 2, 1, 0, 2, 1, 1] := by decide +kernel
theorem test_pnDepunc_length : condOf (exec (.pnDepunc 0) (demo [] 8 0 0 0 [1, 1, 1, 0, 1] [] [])) =
    some .lengthError := by decide +kernel
/-- The example of R206. -/
theorem test_frNorm : vecOf (exec .frNorm (demo [] 1 0 0 0 [1, 1, 0, 0, 0, 0, 0, 0, 1, 0, 1, 0, 0, 0, 0, 1] [] [])) .r =
    some [0, 0, 0, 0, 0, 0, 1, 1, 1, 0, 0, 0, 0, 1, 0, 1] := by decide +kernel
theorem test_frNorm_copy : vecOf (exec .frNorm (demo [] 0 0 0 0 [1, 1, 0] [] [])) .r = some [1, 1, 0] := by
  decide +kernel
/-- The examples of R209. -/
theorem test_frDeint : (after (exec .frDeint (demo [] 3 0 0 0 [0, 1, 2, 3, 4, 5, 6, 7, 8, 9] [] []))).map
    (fun t => (t.vec .r, t.res.r0)) = some ([0, 3, 6, 9, 1, 4, 7, 2, 5, 8], 4) := by decide +kernel
theorem test_frDeint_short : condOf (exec .frDeint (demo [] 2 64 0 0 [1, 0, 1, 1, 0, 0] [] [])) =
    some .inputTooShort := by decide +kernel
/-- The examples of R212. -/
theorem test_frCsum16 : res0Of (exec .frCsum16 (demo [] 0 0 0 0 [0x1234, 0xF00D] [] [])) = some 0xFDBD := by
  decide +kernel
theorem test_frCsum16_two_folds : res0Of (exec .frCsum16 (demo [] 0 0 0 0 [0xFFFF, 0xFFFF, 1] [] [])) =
    some 0xFFFE := by decide +kernel
/-- The examples of R208. -/
theorem test_frRev8 : res0Of (exec .frRev8 (demo [] 0x1D 0 0 0 [] [] [])) = some 0xB8 := by decide +kernel
theorem test_frRev8_fe : res0Of (exec .frRev8 (demo [] 0xFE 0 0 0 [] [] [])) = some 0x7F := by decide +kernel
theorem test_bufCopy : vecOf (exec .bufCopy (demo [] 0 1 3 3 [1, 1, 0, 0, 1, 0] [7] [])) .b = some [0, 1, 0] := by
  decide +kernel
/-- Source and destination one buffer, and the cells beyond `count` stay (R227). -/
theorem test_bufCopy_onto_itself : (after (exec .bufCopy (demo [] 0 0 1 2 [5, 6, 7, 8] [] []))).map
    (fun t => (t.vec .a, readCell t .a 2, readCell t .a 3)) = some ([6, 7], 7, 8) := by decide +kernel

/-! ### Listings -/

/-- The example of R87. -/
theorem test_listing : listingLine (.gfMul 0) [(0, 3), (1, 7)] = [.write 0x08 3, .write 0x09 7, .write 0x1F 3] := by
  decide
/-- R88. -/
theorem test_loadBits : loadBits .a "010" = [.write 0x1000 0, .write 0x1001 1, .write 0x1002 0, .write 0x10 3] := by
  decide

/-! ### Steps -/

theorem test_step_counts : (after (step (demo [.write 0x1F 0] 0 0 0 0 [] [] []))).map
    (fun t => (t.cmdseq, t.lastcmd, t.status.word)) = some (1, 0, 0x100) := by decide +kernel
theorem test_step_illegal : (after (step (demo [.write 0x1F 7] 0 0 0 0 [] [] []))).map
    (fun t => (t.cmdseq, t.lastcmd, t.status.word, t.evlog)) = some (1, 7, 0x108, 0x100) := by decide +kernel
theorem test_step_halted : after (step (demoHalted [.write 0x1F 0])) = some (demoHalted []) := by decide +kernel
theorem test_step_read_id : (after (step (demo [.read 0] 0 0 0 0 [] [] []))).map (fun t => t.busData) =
    some (some 0x47464543) := by decide +kernel
theorem test_step_evlog_keeps_bit_7 : (after (step (demoHalted [.write 3 0xFFFFFFFF]))).map (fun t => t.evlog) =
    some 0x80 := by decide +kernel
theorem test_step_write_cell : (after (step (demo [.write 0x1005 0x12345] 0 0 0 0 [] [] []))).map
    (fun t => readCell t .a 5) = some 0x2345 := by decide +kernel
theorem test_step_withFetchWord : (after (step (State.reset.withFetchWord 32 0))).map (fun t => t.cmdseq) = some 1 := by
  decide +kernel

/-! ### A state that meets the hypotheses of every statement, clause by clause -/

/-- A result whose next state passes a test. -/
theorem next_of {x : Result} {p : State → Bool} (h : (after x).any p = true) : ∃ t, x = .next t ∧ p t = true := by
  cases x with
  | next t => exact ⟨t, rfl, by simpa [after] using h⟩
  | fault r => simp [after] at h
  | refused r => simp [after] at h

/-- A small state with nothing pending. -/
def plain (x y z u : Nat) (a b c : List Nat) : State := demo [] x y z u a b c

/-- A word or frame no correction is found for: three cells, no codeword within one error. -/
def farWord : List Nat := [0, 1, 1]

theorem plain_sound (x y z u : Nat) (a b c : List Nat) (ha : a.length ≤ VLEN := by decide)
    (hb : b.length ≤ VLEN := by decide) (hc : c.length ≤ VLEN := by decide) : (plain x y z u a b c).Sound :=
  demo_sound [] x y z u a b c ha hb hc

theorem gf4_sound : gf4.Sound := by decide +kernel

theorem bchTwo_sound : bchTwo.Sound := by decide +kernel

theorem witness_StepKeepsSound : ∃ s t : State, s.Sound ∧ step s = .next t := by
  obtain ⟨t, h, -⟩ := next_of (x := step (demo [.write 0x1F 0x131] 3 3 0 0 [1] [] [])) (p := fun t => t.sched[1].valid)
    (by decide +kernel)
  exact ⟨_, t, demo_sound _ _ _ _ _ _ _ _ (by decide) (by decide) (by decide), h⟩

theorem witness_StepRunsDecodedCommand :
    ((demoHalted [.write 0x1F 3]).pending = [.write 0x1F 3] ∧ (demoHalted [.write 0x1F 3]).status.halted = true) ∧
    ((demo [.write 0x1F 3] 2 3 0 0 [] [] []).pending = [.write 0x1F 3] ∧
      (demo [.write 0x1F 3] 2 3 0 0 [] [] []).status.halted = false ∧ decode 3 = .ok (.gfMul 0)) ∧
    ((demo [.write 0x1F 7] 0 0 0 0 [] [] []).status.halted = false ∧ decode 7 = .error (.unassignedOpcode 7)) := by
  decide

theorem witness_DecodeFollowsTheTable :
    decode 0xF50 = .error (.selectorSet 0x50) ∧ decode 0xF03 = .ok (.gfMul 15) ∧
      (0xF03 : Word) &&& (Instr.gfMul 0).rowMask = (Instr.gfMul 0).rowMatch := by decide

theorem witness_EveryCommandEndsAsListed :
    ∃ t, (plain 0 0 0 0 farWord [] []).Sound ∧ exec (.rsDec 0) (plain 0 0 0 0 farWord [] []) = .next t ∧
      t.status.cond = .locatorNotFound := by
  obtain ⟨t, h, hp⟩ := next_of (x := exec (.rsDec 0) (plain 0 0 0 0 farWord [] []))
    (p := fun t => decide (t.status.cond = .locatorNotFound)) (by decide +kernel)
  exact ⟨t, plain_sound .., h, of_decide_eq_true hp⟩

theorem witness_ConditionsArePrecise_checks :
    (plain 4 0 0 0 [] [] []).Sound ∧
      condOf (exec (.gfMul 0) (plain 4 0 0 0 [] [] [])) = some .operandRange :=
  ⟨plain_sound .., by decide +kernel⟩
theorem witness_ConditionsArePrecise_repair :
    (plain 29 0 0 0 [1, 0, 1, 1, 0, 0, 0] [] []).Sound ∧
      condOf (exec .bchRepair (plain 29 0 0 0 [1, 0, 1, 1, 0, 0, 0] [] [])) = some .uncorrectable :=
  ⟨plain_sound .., by decide +kernel⟩
theorem witness_ConditionsArePrecise_fix :
    (plain 2 0 0 0 farWord [] []).Sound ∧
      condOf (exec (.rsFix 0) (plain 2 0 0 0 farWord [] [])) = some .locatorNotFound :=
  ⟨plain_sound .., by decide +kernel⟩
theorem witness_ConditionsArePrecise_build :
    (plain 7 1 2 0 [] [] []).Sound ∧
      condOf (exec (.gfBuild 1) (plain 7 1 2 0 [] [] [])) = some .configError :=
  ⟨plain_sound .., by decide +kernel⟩

theorem witness_OnlyBufCopyWritesInputs :
    condOf (exec (.gfPadd 0) (plain 0 0 0 0 [1] [2] [])) = some .ok ∧ Instr.gfPadd 0 ≠ .bufCopy ∧
      BufId.a.isInput = true := by decide +kernel

theorem witness_SlotLifecycle_reset :
    (demo [.write 0x01 1] 0 0 0 0 [] [] []).slotValid .field 0 = true ∧
      (after (step (demo [.write 0x01 1] 0 0 0 0 [] [] []))).map (fun t => t.slotValid .field 0) = some false := by
  decide +kernel
theorem witness_SlotLifecycle_build :
    (demo [.write 0x1F 0x331] 3 3 0 0 [] [] []).slotValid .sched 3 = false ∧
      (after (step (demo [.write 0x1F 0x331] 3 3 0 0 [] [] []))).map (fun t => t.slotValid .sched 3) = some true := by
  decide +kernel
theorem witness_SlotLifecycle_kept :
    (HostAccess.write 0x1F 0x131).resets = false ∧
      (after (step (demo [.write 0x1F 0x131] 0 0 0 0 [] [] []))).isSome = true ∧ (plain 0 0 0 0 [] [] []).fields[0].valid = true ∧
      (plain 0 0 0 0 [] [] []).bch[1].valid = true ∧ (plain 0 0 0 0 [] [] []).rs[0].valid = true ∧
      (plain 0 0 0 0 [] [] []).sched[0].valid = true := by decide +kernel

theorem witness_ResetEntersResetState : (demoHalted [.reset]).pending = [.reset] := by decide

theorem witness_SoftResetIsReset :
    (demoHalted [.write 0x01 0xFFFFFFFF]).pending = [.write 0x01 0xFFFFFFFF] ∧ (0xFFFFFFFF : Word).getLsbD 0 = true ∧
      (0xFFFFFFFE : Word).getLsbD 0 = false ∧ (demoHalted [.reset]).status.halted = true ∧
      (after (step (demoHalted [.reset]))).map (fun t => t.status.halted) = some false := by decide +kernel

theorem witness_HostReadsReturn :
    (demoHalted [.read 0x02]).pending = [.read 0x02] ∧
      (0x307 : Word) = BitVec.ofNat 32 (demoHalted [.read 0x02]).status.cond.code |||
        (if (demoHalted [.read 0x02]).status.done then 0x100 else 0) |||
        (if (demoHalted [.read 0x02]).status.halted then 0x200 else 0) ∧
      (0x5FFF : Nat) = windowBase .q + 4095 ∧ (0x1000 : Nat) = windowBase .a + 0 := by decide

theorem witness_HostWritesStore :
    (demoHalted [.write 0x3FFF 5]).pending = [.write 0x3FFF 5] ∧ BufId.c.isInput = true ∧
      (0x3FFF : Nat) = windowBase .c + 4095 ∧ (0x4000 : Nat) = windowBase .r ∧ (4095 : Nat) < VLEN := by decide

theorem witness_CellReadsBack :
    (demo [.write 0x1FFF 0x12345, .read 0x1FFF] 0 0 0 0 [] [] []).pending =
      [.write (windowBase .a + 4095) 0x12345, .read (windowBase .a + 4095)] ∧
    (demo [.write 0x4000 5, .read 0x4000] 0 0 0 0 [] [] []).pending =
      [.write (windowBase .r + 0) 5, .read (windowBase .r + 0)] := by decide

theorem witness_UnmappedIsRefused :
    mappedIndex 0x06 = false ∧ mappedIndex 0x1E = false ∧ mappedIndex 0x20 = false ∧ mappedIndex 0xFFF = false ∧
      mappedIndex 0x6000 = false ∧ mappedIndex 0x05 = true ∧ mappedIndex 0x1F = true ∧ mappedIndex 0x1000 = true ∧
      mappedIndex 0x5FFF = true ∧ (demo [.read 0x06] 0 0 0 0 [] [] []).pending = [.read 0x06] ∧
      (demo [.write 0x06 1] 0 0 0 0 [] [] []).pending = [.write 0x06 1] := by decide

theorem witness_EvlogRules_illegal :
    (demo [.write 0x1F 7] 0 0 0 0 [] [] []).pending = [.write 0x1F 7] ∧
      (demo [.write 0x1F 7] 0 0 0 0 [] [] []).status.halted = false ∧ decode 7 = .error (.unassignedOpcode 7) ∧
      (after (step (demo [.write 0x1F 7] 0 0 0 0 [] [] []))).map (fun t => t.evlog) = some 0x100 := by decide +kernel
theorem witness_EvlogRules :
    condOf (exec (.gfDiv 0) (plain 1 0 0 0 [] [] [])) = some .divisionByZero ∧
      (demoHalted [.write 0x03 0x80]).pending = [.write 0x03 0x80] ∧ (demoHalted []).evlog.getLsbD 7 = true ∧
      (demoHalted []).evlog.getLsbD 0 = false ∧ (HostAccess.write 0x03 0x80).resets = false ∧
      (after (step (demoHalted [.write 0x03 0x80]))).isSome = true := by decide +kernel

theorem witness_SelectorAndSlotChecks :
    (Instr.gfMul 2).slotKind = some .field ∧ (Instr.gfMul 2).selector = some 2 ∧ SlotKind.count .field ≤ 2 ∧
      (Instr.gfBuild 0).isBuild = true ∧ (plain 0 0 0 0 [] [] []).slotValid .field 0 = true ∧
      (Instr.gfMul 1).isBuild = false ∧ (plain 0 0 0 0 [] [] []).slotValid .field 1 = false ∧
      (plain 1 0 0 0 [] [] []).slotValid .field (plain 1 0 0 0 [] [] []).arg0 = false ∧
      (plain 2 0 0 0 [] [] []).slotValid .field (plain 2 0 0 0 [] [] []).arg0 = false := by decide +kernel

/-- A state with the length registers of `A` and `B` as given. -/
def longer (s : State) (la lb : Nat) : State := setLen (setLen s .a (word32 la)) .b (word32 lb)

theorem witness_FieldOperandChecks :
    (plain 0 0 0 0 [] [] []).fields[0].valid = true ∧ 2 ^ gf4.m ≤ (plain 4 0 0 0 [] [] []).arg0 ∧
      2 ^ gf4.m ≤ (plain 0 4 0 0 [] [] []).arg1 ∧ 2 * (2 ^ gf4.m - 1) - 1 < (plain 6 0 0 0 [] [] []).arg0 ∧
      (plain 0 0 0 0 [] [] []).arg0 = 0 ∧ (plain 0 0 0 0 [] [] []).lenOf .a = 0 ∧
      VLEN < (longer (plain 0 0 0 0 [] [] []) 4097 1).lenOf .a ∧
      (longer (plain 0 0 0 0 [] [] []) 4096 2).lenOf .a ≤ VLEN ∧
      VLEN < (longer (plain 0 0 0 0 [] [] []) 4096 2).lenOf .a + (longer (plain 0 0 0 0 [] [] []) 4096 2).lenOf .b - 1 ∧
      (∃ x ∈ (plain 0 0 0 0 [1] [4] []).vec .a ++ (plain 0 0 0 0 [1] [4] []).vec .b, 2 ^ gf4.m ≤ x) ∧
      (plain 0 0 0 0 [1] [4] []).lenOf .a + (plain 0 0 0 0 [1] [4] []).lenOf .b - 1 ≤ VLEN := by decide +kernel

theorem witness_BchOperandChecks :
    (plain 1 7 1 4 [] [] []).bch[2].valid = false ∧ (plain 1 7 1 4 [] [] []).arg0 < 2 ∧
      (plain 29 0 1 4 [] [] []).arg1 < 1 ∧ BCH_MAXN < (plain 29 33 1 4 [] [] []).arg1 ∧
      (plain 29 7 0 4 [] [] []).arg2 < 1 ∧ 3 < (plain 29 7 4 4 [] [] []).arg2 ∧
      (plain 29 7 1 3 [] [] []).arg3 < bitlen (plain 29 7 1 3 [] [] []).arg0 - 1 ∧
      BCH_MAXSYN < (plain 29 7 1 13 [] [] []).arg3 ∧ (plain 0 0 0 0 [] [] []).arg0 = 0 ∧
      1 ≤ (plain 1 0 0 0 [] [] []).arg0 ∧ (plain 1 0 0 0 [] [] []).lenOf .a = 0 ∧
      (∃ x ∈ (plain 1 0 0 0 [2] [] []).vec .a, 2 ≤ x) ∧ (plain 1 0 0 0 [2] [] []).lenOf .a ≤ VLEN ∧
      (plain 0 0 0 0 [] [] []).bch[0].valid = true ∧ (plain 0 0 0 0 [] [] []).lenOf .a ≠ bchOne.n ∧
      (plain 0 0 0 0 [0, 0, 0, 0, 0, 0, 2] [] []).lenOf .a = bchOne.n ∧
      (∃ x ∈ (plain 0 0 0 0 [0, 0, 0, 0, 0, 0, 2] [] []).vec .a, 2 ≤ x) ∧
      2 ^ bchOne.synbits ≤ (plain 16 0 0 0 [] [] []).arg0 := by decide +kernel

theorem witness_RsOperandChecks_configuration :
    (plain 0 0 0 2 [] [] []).rs[1].valid = false ∧ (plain 0 0 0 2 [] [] []).arg0 < NF ∧
      (plain 0 0 0 2 [] [] []).fields[0].valid = true ∧ (plain 0 0 0 2 [] [] []).arg1 < 1 ∧
      MAXNSYM < (plain 0 33 0 2 [] [] []).arg1 ∧ gf4.order - 1 < (plain 0 3 0 2 [] [] []).arg1 ∧
      gf4.order - 1 < (plain 0 2 3 2 [] [] []).arg2 ∧ (plain 0 2 0 3 [] [] []).arg3 ≠ gf4.gen.toNat := by
  decide +kernel
theorem witness_RsOperandChecks_lengths :
    (plain 0 0 0 0 [] [] []).rs[0].valid = true ∧ (plain 0 0 0 0 [] [] []).lenOf .a = 0 ∧
      gf4.order < (plain 0 0 0 0 [1, 1] [] []).lenOf .a + rs4.nsym ∧
      (plain 0 0 0 0 [4] [] []).lenOf .a + rs4.nsym ≤ gf4.order ∧ gf4.order < (plain 0 0 0 0 [1, 1, 1, 1] [] []).lenOf .a ∧
      (plain 0 0 0 0 [1] [1] []).lenOf .b ≠ rs4.nsym ∧ rs4.nsym < (plain 0 0 0 0 [1] [1, 1] [0, 0, 0]).lenOf .c ∧
      (plain 0 0 0 0 [] [] []).arg0 = 0 ∧ gf4.order < (plain 4 0 0 0 [] [] []).arg0 ∧
      (plain 3 0 0 0 [1] [] []).lenOf .a ≠ rs4.nsym ∧ rs4.nsym < (plain 3 0 0 0 [1, 1] [0, 0, 0] []).lenOf .b ∧
      VLEN < (longer (plain 3 0 0 0 [] [] []) 4097 0).lenOf .a ∧ (plain 0 0 0 0 [1, 1] [] []).lenOf .a ≤ rs4.nsym ∧
      VLEN < (longer (plain 0 0 0 0 [] [] []) 3 4097).lenOf .b := by decide +kernel
theorem witness_RsOperandChecks_cells :
    (∃ x ∈ (plain 0 0 0 0 [4] [] []).vec .a, 2 ^ gf4.m ≤ x) ∧
      (∃ x ∈ (plain 0 0 0 0 [1] [4, 0] []).vec .b, 2 ^ gf4.m ≤ x) ∧
      (∃ x ∈ (plain 0 0 0 0 [1] [0, 0] [1]).vec .c, (plain 0 0 0 0 [1] [0, 0] [1]).lenOf .a ≤ x) ∧
      (plain 0 0 0 0 [1] [0, 0] [1]).lenOf .b = rs4.nsym ∧ (plain 0 0 0 0 [1] [0, 0] [1]).lenOf .c ≤ rs4.nsym ∧
      (∃ x ∈ (plain 3 0 0 0 [0, 0] [3] []).vec .b, (plain 3 0 0 0 [0, 0] [3] []).arg0 ≤ x) ∧
      (∃ x ∈ (plain 0 0 0 0 [0, 0, 1] [3] []).vec .b, (plain 0 0 0 0 [0, 0, 1] [3] []).lenOf .a ≤ x) ∧
      rs4.nsym + 1 ≤ (plain 0 0 0 0 [0, 0, 1] [3] []).lenOf .a := by decide +kernel
theorem witness_RsOperandChecks_frames :
    (plain 0 2 0 0 [] [] []).arg0 = 0 ∧ (plain 1 2 0 0 [] [] []).arg0 + (plain 1 2 0 0 [] [] []).arg1 ≠ rs4.nsym ∧
      (plain 1 1 0 0 [1] [] []).arg0 + (plain 1 1 0 0 [1] [] []).arg1 = rs4.nsym ∧
      (plain 1 1 0 0 [1] [] []).lenOf .a < (plain 1 1 0 0 [1] [] []).arg0 + 1 ∧
      gf4.order < (plain 1 1 0 0 [1, 1, 1] [] []).lenOf .a + (plain 1 1 0 0 [1, 1, 1] [] []).arg1 ∧
      ¬ ((plain 1 1 0 0 [1, 4] [] []).lenOf .a < (plain 1 1 0 0 [1, 4] [] []).arg0 + 1 ∨
        gf4.order < (plain 1 1 0 0 [1, 4] [] []).lenOf .a + (plain 1 1 0 0 [1, 4] [] []).arg1) ∧
      (∃ x ∈ (plain 1 1 0 0 [1, 4] [] []).vec .a, 2 ^ gf4.m ≤ x) := by decide +kernel

theorem witness_StreamOperandChecks_encoder :
    (plain 0 0 0 0 [] [] []).arg3 < 1 ∧ CV_MAXK < (plain 0 0 0 33 [] [] []).arg3 ∧ 2 ^ 3 ≤ (plain 8 0 0 3 [] [] []).arg0 ∧
      2 ^ 3 ≤ (plain 0 8 0 3 [] [] []).arg1 ∧ 2 ^ 3 ≤ (plain 0 0 8 3 [] [] []).arg2 ∧
      VLEN < 2 * (longer (plain 7 5 0 3 [] [] []) 2049 0).lenOf .a ∧
      2 * (plain 7 5 0 3 [2] [] []).lenOf .a ≤ VLEN ∧ (∃ x ∈ (plain 7 5 0 3 [2] [] []).vec .a, 2 ≤ x) := by
  decide +kernel
theorem witness_StreamOperandChecks_schedules :
    (plain 0 0 0 0 [] [] []).sched[1].valid = false ∧ (plain 0 0 0 0 [] [] []).arg0 < 1 ∧
      MAXPERIOD < (plain 33 0 0 0 [] [] []).arg0 ∧
      2 ^ (plain 3 8 0 0 [] [] []).arg0 ≤ (plain 3 8 0 0 [] [] []).arg1 ∧
      (plain 0 0 0 0 [] [] []).sched[0].valid = true ∧ VLEN < (longer (plain 0 0 0 0 [] [] []) 4097 0).lenOf .a ∧
      (∃ x ∈ (plain 1 0 0 0 [2] [] []).vec .a, 2 ≤ x) ∧ VLEN < (plain 4097 0 0 0 [] [] []).arg0 ∧
      (plain 1 0 0 0 [] [] []).lenOf .a ≠ keptCount schedule (plain 1 0 0 0 [] [] []).arg0 ∧
      (plain 1 0 0 0 [2] [] []).lenOf .a = keptCount schedule (plain 1 0 0 0 [2] [] []).arg0 := by decide +kernel
theorem witness_StreamOperandChecks_framer :
    1 < (plain 2 0 0 0 [] [] []).arg0 ∧ (plain 1 0 0 0 [1] [] []).arg0 = 1 ∧ (plain 1 0 0 0 [1] [] []).lenOf .a % 8 ≠ 0 ∧
      (plain 0 0 0 0 [2] [] []).arg0 ≤ 1 ∧ (∃ x ∈ (plain 0 0 0 0 [2] [] []).vec .a, 2 ≤ x) ∧
      (plain 0 0 0 0 [] [] []).arg0 = 0 ∧ VLEN < (plain 4097 0 0 0 [] [] []).arg0 ∧
      VLEN < (longer (plain 1 0 0 0 [] [] []) 4097 0).lenOf .a ∧
      (plain 1 2 0 0 [1] [] []).lenOf .a < (plain 1 2 0 0 [1] [] []).arg1 ∧ 255 < (plain 256 0 0 0 [] [] []).arg0 := by
  decide +kernel
theorem witness_StreamOperandChecks_copy :
    4 < (plain 5 0 0 0 [] [] []).arg0 ∧ 2 < (plain 0 3 0 0 [] [] []).arg1 ∧ VLEN < (plain 0 0 4097 0 [] [] []).arg2 ∧
      VLEN < (plain 0 0 0 4097 [] [] []).arg3 ∧ bufOfNumber (plain 0 2 1 1 [1] [] []).arg0 = some .a ∧
      (plain 0 2 1 1 [1] [] []).lenOf .a < (plain 0 2 1 1 [1] [] []).arg2 + (plain 0 2 1 1 [1] [] []).arg3 ∧
      VLEN < (longer (plain 0 0 0 0 [] [] []) 4097 0).lenOf .a := by decide +kernel

theorem witness_BuiltTablesAreInverse : gf4.Sound ∧ gf4.valid = true ∧ 2 < gf4.order ∧ 3 ≤ gf4.order :=
  ⟨gf4_sound, rfl, by decide, by decide⟩

theorem witness_TableProductIsPolynomialProduct :
    (gf4.Sound ∧ gf4.valid = true ∧ 3 < 2 ^ gf4.m) ∧ (3 < 2 ^ 2 ∧ 2 ^ 2 ≤ 7 ∧ 7 < 2 ^ (2 + 1)) :=
  ⟨⟨gf4_sound, rfl, by decide⟩, by decide⟩

theorem witness_FieldLaws : gf4.Sound ∧ gf4.valid = true ∧ 3 < 2 ^ gf4.m ∧ (3 : Nat) ≠ 0 :=
  ⟨gf4_sound, rfl, by decide, by decide⟩

theorem witness_PolynomialHelpers :
    ([1] : List Nat) ≠ [] ∧ gf4.Sound ∧ gf4.valid = true ∧ (∀ a ∈ [3, 0, 2], a < 2 ^ gf4.m) ∧ 0 < 2 ^ gf4.m :=
  ⟨by decide, gf4_sound, rfl, by decide, by decide⟩

theorem witness_FieldBuild_cycle : PowersCycle 7 2 2 := by
  refine ⟨fun i j hij hj => ?_, by decide +kernel⟩
  have h : ∀ j, j < 3 → ∀ i, i < j → powerOf 7 2 2 i ≠ powerOf 7 2 2 j := by decide +kernel
  exact h j hj i hij
theorem witness_FieldBuild_no_cycle : ¬ PowersCycle 7 1 2 := fun h =>
  h.1 0 1 (by decide) (by decide) (by decide +kernel)
theorem witness_FieldBuildCompletesOrHalts :
    (plain 7 2 2 0 [] [] []).fields[1].valid = false ∧ (plain 7 2 2 0 [] [] []).arg0 = 7 ∧
      (plain 7 2 2 0 [] [] []).arg1 = 2 ∧ (plain 7 2 2 0 [] [] []).arg2 = 2 ∧
      (1 ≤ 2 ∧ 2 ≤ MAXM ∧ 2 ^ 2 ≤ 7 ∧ 7 < 2 ^ (2 + 1) ∧ 1 ≤ 2 ∧ 2 ≤ 2 ^ 2 - 1) ∧
      ¬ (1 ≤ 9 ∧ (plain 0x11D 2 9 0 [] [] []).arg2 ≤ MAXM) := by decide +kernel

theorem witness_FieldScalarCommandsComplete :
    (plain 3 3 0 0 [] [] []).fields[0].valid = true ∧ (plain 3 3 0 0 [] [] []).arg0 < 2 ^ gf4.m ∧
      (plain 3 3 0 0 [] [] []).arg1 < 2 ^ gf4.m ∧ (plain 5 0 0 0 [] [] []).arg0 ≤ 2 * (2 ^ gf4.m - 1) - 1 ∧
      1 ≤ (plain 3 0 0 0 [] [] []).arg0 ∧ (plain 3 0 0 0 [] [] []).arg0 ≤ 2 ^ gf4.m - 1 := by decide +kernel

theorem witness_FieldDivisionCompletes :
    (plain 3 3 0 0 [] [] []).Sound ∧ (plain 3 3 0 0 [] [] []).fields[0].valid = true ∧
      (plain 3 3 0 0 [] [] []).arg1 ≠ 0 ∧ (plain 3 3 0 0 [] [] []).arg1 < 2 ^ gf4.m ∧
      (plain 0 0 0 0 [] [] []).arg1 = 0 :=
  ⟨plain_sound .., rfl, by decide +kernel, by decide +kernel, by decide +kernel⟩

theorem witness_FieldVectorCommandsComplete :
    (plain 0 0 0 0 [1, 3] [2] []).fields[0].valid = true ∧ 1 ≤ (plain 0 0 0 0 [1, 3] [2] []).lenOf .a ∧
      1 ≤ (plain 0 0 0 0 [1, 3] [2] []).lenOf .b ∧ (∀ x ∈ (plain 0 0 0 0 [1, 3] [2] []).vec .a, x < 2 ^ gf4.m) ∧
      (∀ x ∈ (plain 0 0 0 0 [1, 3] [2] []).vec .b, x < 2 ^ gf4.m) ∧
      (plain 0 0 0 0 [1, 3] [2] []).lenOf .a + (plain 0 0 0 0 [1, 3] [2] []).lenOf .b - 1 ≤ VLEN := by decide +kernel

theorem witness_RemainderFacts : 1 ≤ 29 ∧ 127 < 2 ^ 7 ∧ 7 ≤ 9 ∧ ¬ 7 ≤ bitlen 29 - 1 ∧ 4 ≤ bitlen 29 - 1 := by decide

theorem witness_SyndromeTableFirstWins :
    bchTwo.Sound ∧ bchTwo.valid = true ∧ (14, (⟨1, 64⟩ : SynEntry)) ∈ bchTwo.syn ∧ (3, (⟨2, 3⟩ : SynEntry)) ∈ bchTwo.syn :=
  ⟨bchTwo_sound, rfl, by decide +kernel, by decide +kernel⟩

theorem witness_RepairUndoesFlips :
    gf2Rem 29 7 0b0011101 = 0 ∧ gf2Rem 29 7 (1 <<< 6) ≠ 0 ∧ gf2Rem 29 7 ((1 <<< 0) ^^^ (1 <<< 1)) ≠ 0 ∧
      (∀ p, p < 6 → gf2Rem 29 7 (1 <<< p) ≠ gf2Rem 29 7 (1 <<< 6)) ∧
      (∀ p, p < 7 → gf2Rem 29 7 (1 <<< p) ≠ gf2Rem 29 7 ((1 <<< 0) ^^^ (1 <<< 1))) := by decide +kernel

theorem witness_RepairAgreesWithLookup :
    ((plain 29 0 0 0 [0, 0, 1, 1, 0, 0, 0] [] []).Sound ∧ bchTwo.valid = true ∧ 2 ≤ bchTwo.maxErrors) ∧
    ((plain 29 0 0 0 [0, 0, 1, 1, 0, 0, 0] [] []).arg.r0 = bchTwo.poly ∧
      (plain 29 0 0 0 [0, 0, 1, 1, 0, 0, 0] [] []).lenOf .a = bchTwo.n ∧ bchOne.maxErrors = 1 ∧
      res0Of (exec .bchRepair (plain 29 0 0 0 [0, 0, 1, 1, 0, 0, 0] [] [])) = some 2 ∧
      res0Of (exec .bchRepair (plain 29 0 0 0 [0, 0, 0, 1, 0, 0, 0] [] [])) = some 1 ∧
      condOf (exec .bchRepair (plain 29 0 0 0 [1, 0, 1, 1, 0, 0, 0] [] [])) = some .uncorrectable) :=
  ⟨⟨plain_sound .., rfl, by decide⟩, by decide +kernel⟩

theorem witness_CodeBuildsComplete :
    (plain 29 7 1 4 [] [] []).bch[2].valid = false ∧ 2 ≤ (plain 29 7 1 4 [] [] []).arg0 ∧
      (plain 29 7 1 4 [] [] []).arg1 ≤ BCH_MAXN ∧ (plain 29 7 1 4 [] [] []).arg2 ≤ 3 ∧
      bitlen (plain 29 7 1 4 [] [] []).arg0 - 1 ≤ (plain 29 7 1 4 [] [] []).arg3 ∧
      (plain 32 0xFFFFFFFF 0 0 [] [] []).sched[1].valid = false ∧ (plain 32 0xFFFFFFFF 0 0 [] [] []).arg0 ≤ MAXPERIOD ∧
      (plain 32 0xFFFFFFFF 0 0 [] [] []).arg1 < 2 ^ (plain 32 0xFFFFFFFF 0 0 [] [] []).arg0 := by decide +kernel

theorem witness_BchReadsComplete :
    1 ≤ (plain 29 0 0 0 [1] [] []).arg0 ∧ 1 ≤ (plain 29 0 0 0 [1] [] []).lenOf .a ∧
      (∀ x ∈ (plain 29 0 0 0 [1] [] []).vec .a, x < 2) ∧ (plain 15 0 0 0 [] [] []).bch[0].valid = true ∧
      (plain 15 0 0 0 [] [] []).arg0 < 2 ^ bchOne.synbits := by decide +kernel

theorem witness_RepairCompletes :
    (∀ x ∈ (plain 29 0 0 0 [0, 0, 1, 1, 0, 0, 0] [] []).vec .a, x < 2) ∧ gf2Rem 29 7 0b0011101 = 0 ∧
      gf2Rem 29 7 0b0011000 ≠ 0 ∧
      (List.range 7).find? (fun i => gf2Rem 29 7 (0b0001000 ^^^ (1 <<< i)) == 0) = some 3 ∧
      (List.range 7).find? (fun i => gf2Rem 29 7 (0b0011000 ^^^ (1 <<< i)) == 0) = none ∧
      (firstPair 7 fun i j => gf2Rem 29 7 (0b0011000 ^^^ (1 <<< i) ^^^ (1 <<< j)) == 0) = some (0, 2) ∧
      (firstPair 7 fun i j => gf2Rem 29 7 (0b1011000 ^^^ (1 <<< i) ^^^ (1 <<< j)) == 0) = none ∧
      (List.range 7).find? (fun i => gf2Rem 29 7 (0b1011000 ^^^ (1 <<< i)) == 0) = none := by decide +kernel

theorem witness_LookupCompletes :
    (plain 0 0 0 0 [0, 0, 1, 1, 0, 0, 0] [] []).Sound ∧
    ((plain 0 0 0 0 [0, 0, 1, 1, 0, 0, 0] [] []).bch[0].valid = true ∧
      (plain 0 0 0 0 [0, 0, 1, 1, 0, 0, 0] [] []).lenOf .a = bchOne.n ∧
      (∀ x ∈ (plain 0 0 0 0 [0, 0, 1, 1, 0, 0, 0] [] []).vec .a, x < 2) ∧ gf2Rem 29 7 0b0011000 = 5 ∧
      synAt bchOne.syn 5 = none ∧ gf2Rem 29 7 0b0001000 = 8 ∧ synAt bchOne.syn 8 = some ⟨1, 8⟩ ∧
      gf2Rem 29 7 0b0011101 = 0) := ⟨plain_sound .., by decide +kernel⟩

theorem witness_EncodedWordsAreCodewords :
    (plain 0 0 0 0 [] [] []).Sound ∧ (plain 0 0 0 0 [] [] []).rs[0].valid = true ∧ ([3] : List Nat) ≠ [] ∧
      [3].length + rs4.nsym ≤ gf4.order ∧ (∀ x ∈ [3], x < 2 ^ gf4.m) ∧ 1 < rs4.nsym :=
  ⟨plain_sound .., rfl, by decide, by decide, by decide, by decide⟩

theorem witness_DecodedWordIsCodeword :
    (plain 0 0 0 0 [2, 1, 0] [] []).Sound ∧ (plain 0 0 0 0 [2, 1, 0] [] []).rs[0].valid = true ∧
      condOf (exec (.rsDec 0) (plain 0 0 0 0 [2, 1, 0] [] [])) = some .ok :=
  ⟨plain_sound .., rfl, by decide +kernel⟩

theorem witness_DecodedWordIsCodeword_error :
    (plain 0 0 0 0 [2, 1, 0] [] []).Sound ∧ ((plain 0 0 0 0 [2, 1, 0] [] []).lenOf .a = 3 ∧
      rs4.nsym + 1 ≤ 3 ∧ 3 ≤ gf4.order ∧ (∀ x ∈ (plain 0 0 0 0 [2, 1, 0] [] []).vec .a, x < 2 ^ gf4.m) ∧
      ((plain 0 0 0 0 [2, 1, 0] [] []).vec .b).Nodup ∧ (∀ x ∈ [2, 1, 3], x < 2 ^ gf4.m) ∧
      rsSyndromes gf4 rs4 [2, 1, 3] = List.replicate rs4.nsym 0 ∧
      2 * ((List.range 3).filter fun p => p ∉ (plain 0 0 0 0 [2, 1, 0] [] []).vec .b ∧
        ((plain 0 0 0 0 [2, 1, 0] [] []).vec .a)[p]? ≠ [2, 1, 3][p]?).length +
          (plain 0 0 0 0 [2, 1, 0] [] []).lenOf .b = rs4.nsym) := ⟨plain_sound .., by decide +kernel⟩
theorem witness_DecodedWordIsCodeword_erasures :
    (plain 0 0 0 0 [2, 0, 0] [2, 1] []).Sound ∧ ((plain 0 0 0 0 [2, 0, 0] [2, 1] []).lenOf .a = 3 ∧
      (∀ p ∈ (plain 0 0 0 0 [2, 0, 0] [2, 1] []).vec .b, p < 3) ∧
      ((plain 0 0 0 0 [2, 0, 0] [2, 1] []).vec .b).Nodup ∧
      2 * ((List.range 3).filter fun p => p ∉ (plain 0 0 0 0 [2, 0, 0] [2, 1] []).vec .b ∧
        ((plain 0 0 0 0 [2, 0, 0] [2, 1] []).vec .a)[p]? ≠ [2, 1, 3][p]?).length +
          (plain 0 0 0 0 [2, 0, 0] [2, 1] []).lenOf .b = rs4.nsym ∧
      res0Of (exec (.rsDec 0) (plain 0 0 0 0 [2, 0, 0] [2, 1] [])) = some 2) := ⟨plain_sound .., by decide +kernel⟩
theorem witness_DecodedWordIsCodeword_turned_away :
    (plain 0 0 0 0 [2, 1, 0] [2, 2] []).Sound ∧ (plain 0 0 0 0 [2, 1, 0] [0, 1, 2] []).Sound ∧
      (rsSyndromes gf4 rs4 [2, 1, 0] ≠ List.replicate rs4.nsym 0 ∧
      (plain 0 0 0 0 [2, 1, 0] [2, 2] []).lenOf .b ≤ rs4.nsym ∧ ¬ ((plain 0 0 0 0 [2, 1, 0] [2, 2] []).vec .b).Nodup ∧
      rs4.nsym < (plain 0 0 0 0 [2, 1, 0] [0, 1, 2] []).lenOf .b) :=
  ⟨plain_sound .., plain_sound .., by decide +kernel⟩

theorem witness_LocatorAndPositions :
    (plain 0 0 0 0 [] [] []).Sound ∧ (plain 0 0 0 0 [] [] []).rs[0].valid = true ∧
    (([3, 3] : List Nat).length = rs4.nsym ∧ (∀ x ∈ [3, 3], x < 2 ^ gf4.m) ∧ [2].length ≤ rs4.nsym ∧ 3 ≤ gf4.order ∧
      (∀ e ∈ [2], e < 3) ∧ rsEpos gf4 rs4 [1, 1] 3 = some [2] ∧ rsEpos gf4 rs4 [0] 3 = none ∧
      ([0] : List Nat) ≠ [] ∧ (∀ x ∈ [0, 0], x = 0)) := ⟨plain_sound .., rfl, by decide +kernel⟩

theorem witness_CodeConfigurationCompletes :
    (plain 0 2 2 2 [] [] []).Sound ∧
    ((plain 0 2 2 2 [] [] []).arg0 < NF ∧ (plain 0 2 2 2 [] [] []).rs[1].valid = false ∧ gf4.valid = true ∧
      (plain 0 2 2 2 [] [] []).arg1 ≤ gf4.order - 1 ∧ (plain 0 2 2 2 [] [] []).arg2 ≤ gf4.order - 1 ∧
      (plain 0 2 2 2 [] [] []).arg3 = gf4.gen.toNat) := ⟨plain_sound .., by decide +kernel⟩

theorem witness_EncoderCompletes :
    (plain 0 0 0 0 [2] [] []).Sound ∧ ((plain 0 0 0 0 [2] [] []).rs[0].valid = true ∧
      1 ≤ (plain 0 0 0 0 [2] [] []).lenOf .a ∧ (plain 0 0 0 0 [2] [] []).lenOf .a + rs4.nsym ≤ gf4.order ∧
      (∀ x ∈ (plain 0 0 0 0 [2] [] []).vec .a, x < 2 ^ gf4.m)) := ⟨plain_sound .., by decide +kernel⟩

theorem witness_DecoderStagesComplete :
    (plain 3 0 0 0 [3, 3] [2] []).Sound ∧ ((plain 3 0 0 0 [3, 3] [2] []).rs[0].valid = true ∧
      (∀ x ∈ (plain 3 0 0 0 [3, 3] [2] []).vec .a, x < 2 ^ gf4.m) ∧
      (plain 3 0 0 0 [3, 3] [2] []).lenOf .a ≤ gf4.order ∧ (plain 3 0 0 0 [3, 3] [2] []).arg0 ≤ gf4.order ∧
      (plain 3 0 0 0 [3, 3] [2] []).lenOf .a = rs4.nsym ∧ (plain 3 0 0 0 [3, 3] [2] []).lenOf .b ≤ rs4.nsym ∧
      (∀ x ∈ (plain 3 0 0 0 [3, 3] [2] []).vec .b, x < 3) ∧
      rsEpos gf4 rs4 ((plain 3 0 0 0 [1, 1] [] []).vec .a) 3 = some [2] ∧
      rsEpos gf4 rs4 ((plain 3 0 0 0 [0] [] []).vec .a) 3 = none) := ⟨plain_sound .., by decide +kernel⟩

theorem witness_CorrectionCompletes :
    (plain 0 0 0 0 [2, 1, 0] [3, 3] [2]).Sound ∧ ((plain 0 0 0 0 [2, 1, 0] [3, 3] [2]).rs[0].valid = true ∧
      (plain 0 0 0 0 [2, 1, 0] [3, 3] [2]).lenOf .a ≤ gf4.order ∧
      (plain 0 0 0 0 [2, 1, 0] [3, 3] [2]).lenOf .b = rs4.nsym ∧
      (plain 0 0 0 0 [2, 1, 0] [3, 3] [2, 2]).lenOf .c ≤ rs4.nsym ∧
      (∀ x ∈ (plain 0 0 0 0 [2, 1, 0] [3, 3] [2]).vec .c, x < 3) ∧
      ((plain 0 0 0 0 [2, 1, 0] [3, 3] [2]).vec .c).Nodup ∧ rsCorr gf4 rs4 [2, 1, 0] [3, 3] [2] = some [2, 1, 3] ∧
      rsCorr gf4 rs4 [2, 1, 0] [3, 3] [2, 2] = none ∧
      ¬ ((plain 0 0 0 0 [2, 1, 0] [3, 3] [2, 2]).vec .c).Nodup) := ⟨plain_sound .., by decide +kernel⟩

theorem witness_DecoderCompletes :
    (plain 0 0 0 0 [2, 1, 0] [2] []).Sound ∧ ((plain 0 0 0 0 [2, 1, 0] [2] []).rs[0].valid = true ∧
      rs4.nsym + 1 ≤ (plain 0 0 0 0 [2, 1, 0] [2] []).lenOf .a ∧
      (plain 0 0 0 0 [2, 1, 0] [2] []).lenOf .a ≤ gf4.order ∧
      (∀ x ∈ (plain 0 0 0 0 [2, 1, 0] [2] []).vec .a, x < 2 ^ gf4.m) ∧
      (∀ x ∈ (plain 0 0 0 0 [2, 1, 0] [2] []).vec .b, x < 3) ∧
      rsDecode gf4 rs4 [2, 1, 0] [2] = .ok ⟨[2], [1, 3], 1⟩ ∧
      rsDecode gf4 rs4 farWord [] = .error .locatorNotFound) := ⟨plain_sound .., by decide +kernel⟩

theorem witness_FrameCheckCompletes :
    (plain 1 1 0 0 [2, 1] [] []).Sound ∧ ((plain 1 1 0 0 [2, 1] [] []).rs[0].valid = true ∧
      (plain 1 1 0 0 [2, 1] [] []).arg0 + (plain 1 1 0 0 [2, 1] [] []).arg1 = rs4.nsym ∧
      (plain 1 1 0 0 [2, 1] [] []).arg0 + 1 ≤ (plain 1 1 0 0 [2, 1] [] []).lenOf .a ∧
      (plain 1 1 0 0 [2, 1] [] []).lenOf .a + (plain 1 1 0 0 [2, 1] [] []).arg1 ≤ gf4.order ∧
      (∀ x ∈ (plain 1 1 0 0 [2, 1] [] []).vec .a, x < 2 ^ gf4.m)) := ⟨plain_sound .., by decide +kernel⟩

theorem witness_FrameFixCompletes :
    (plain 2 0 0 0 farWord [] []).Sound ∧ ((plain 2 0 0 0 farWord [] []).rs[0].valid = true ∧
      (plain 2 0 0 0 farWord [] []).arg0 + (plain 2 0 0 0 farWord [] []).arg1 = rs4.nsym ∧
      (plain 2 0 0 0 farWord [] []).arg0 + 1 ≤ (plain 2 0 0 0 farWord [] []).lenOf .a ∧
      (plain 2 0 0 0 farWord [] []).lenOf .a + (plain 2 0 0 0 farWord [] []).arg1 ≤ gf4.order ∧
      (∀ x ∈ (plain 2 0 0 0 farWord [] []).vec .a, x < 2 ^ gf4.m) ∧
      rsDecode gf4 rs4 farWord [] = .error .locatorNotFound ∧
      rsDecode gf4 rs4 [2, 1, 0] [2] = .ok ⟨[2], [1, 3], 1⟩) := ⟨plain_sound .., by decide +kernel⟩

theorem witness_PunctureCodecProperties :
    (∀ b ∈ [1, 1, 0, 1], b < 2) ∧ schedule.pattern.getLsbD (2 % schedule.period) = false ∧
      schedule.pattern.getLsbD (3 % schedule.period) = true ∧ [1, 0].length = [0, 1].length := by decide

theorem witness_EncoderRegisterBits : 5 < 2 ^ 3 ∧ (∀ b ∈ [1, 1], b < 2) ∧ 2 ≤ [1, 1].length ∧ 2 < 3 := by decide

theorem witness_EncodeStreamCompletes :
    1 ≤ (plain 7 5 5 3 [1, 1] [] []).arg3 ∧ (plain 7 5 5 3 [1, 1] [] []).arg0 < 2 ^ (plain 7 5 5 3 [1, 1] [] []).arg3 ∧
      (plain 7 5 5 3 [1, 1] [] []).arg2 < 2 ^ 3 ∧ 2 * (plain 7 5 5 3 [1, 1] [] []).lenOf .a ≤ VLEN ∧
      (∀ x ∈ (plain 7 5 5 3 [1, 1] [] []).vec .a, x < 2) := by decide +kernel

theorem witness_PunctureCommandsComplete :
    (plain 3 0 0 0 [1, 1] [] []).sched[0].valid = true ∧ (∀ x ∈ (plain 3 0 0 0 [1, 1] [] []).vec .a, x < 2) ∧
      (plain 3 0 0 0 [1, 1] [] []).lenOf .a = ((List.range 3).filter schedule.keeps).length ∧
      (plain 3 0 0 0 [1, 1] [] []).arg0 ≤ VLEN := by decide +kernel

theorem witness_ReversalIsInvolutive :
    (∀ b ∈ [1, 1, 0, 0, 0, 0, 0, 0], b < 2) ∧ [1, 1, 0, 0, 0, 0, 0, 0].length % 8 = 0 ∧
      8 * 0 + 7 < [1, 1, 0, 0, 0, 0, 0, 0].length := by decide

theorem witness_DeinterleavePermutes : 1 ≤ 3 ∧ 0 < 3 ∧ 3 < streamLen 10 3 0 ∧ 9 < 10 := by decide

theorem witness_ChecksumProperties : (∀ x ∈ [0xFFFF, 0], x < 2 ^ 16) ∧ 1 < [0xFFFF, 0].length ∧ 15 < 16 := by decide

theorem witness_FramerStreamsComplete :
    (plain 1 0 0 0 [1, 1, 0, 0, 0, 0, 0, 0] [] []).arg0 = 1 ∧
      (plain 1 0 0 0 [1, 1, 0, 0, 0, 0, 0, 0] [] []).lenOf .a % 8 = 0 ∧
      (∀ x ∈ (plain 1 0 0 0 [1, 1, 0, 0, 0, 0, 0, 0] [] []).vec .a, x < 2) ∧
      1 ≤ (plain 4096 1 0 0 [65535] [] []).arg0 ∧ (plain 4096 1 0 0 [65535] [] []).arg0 ≤ VLEN ∧
      (plain 4096 1 0 0 [65535] [] []).arg1 ≤ (plain 4096 1 0 0 [65535] [] []).lenOf .a := by decide +kernel

theorem witness_FramerScalarsComplete :
    (plain 255 0 0 0 [65535] [] []).lenOf .a ≤ VLEN ∧ (plain 255 0 0 0 [65535] [] []).arg0 ≤ 255 := by decide +kernel

theorem witness_CopyCompletes :
    bufOfNumber (plain 0 0 1 2 [5, 6, 7] [] []).arg0 = some .a ∧ bufOfNumber (plain 0 0 1 2 [5, 6, 7] [] []).arg1 = some .a ∧
      BufId.a.isInput = true ∧ (plain 0 0 1 2 [5, 6, 7] [] []).arg2 ≤ VLEN ∧
      (plain 0 0 1 2 [5, 6, 7] [] []).arg2 + (plain 0 0 1 2 [5, 6, 7] [] []).arg3 ≤
        (plain 0 0 1 2 [5, 6, 7] [] []).lenOf .a := by decide +kernel

end Sys2Proof.Tests
end

section
/-! PROOFS. How every command ends (60_exceptions.md R243), said once for each command: with one condition, over a state
that differs from the one it found in its outputs alone, and in the same way whatever `EVLOG` holds. -/

namespace Sys2Proof.Machine

open Sys2Proof.Config

/-! ### What a command has written when it ends -/

/-- `u` differs from `s` at most in what a command may write: scalar results, buffers, slots, and the model's counter of
free values. `STATUS`, `EVLOG`, `CMDSEQ`, `LASTCMD`, `ARG` and the bus are as in `s` (R21, R25, R27). -/
def Writes (s u : State) : Prop :=
  u = { s with
    res := u.res, a := u.a, b := u.b, c := u.c, r := u.r, q := u.q
    fields := u.fields, bch := u.bch, rs := u.rs, sched := u.sched, fresh := u.fresh }

/-- As `Writes`, and the input buffers are as in `s` too (R31). -/
def WritesOutputs (s u : State) : Prop :=
  u = { s with
    res := u.res, r := u.r, q := u.q
    fields := u.fields, bch := u.bch, rs := u.rs, sched := u.sched, fresh := u.fresh }

theorem Writes.status {s u : State} (h : Writes s u) : u.status = s.status := (congrArg State.status h :)

theorem Writes.evlog {s u : State} (h : Writes s u) : u.evlog = s.evlog := (congrArg State.evlog h :)

theorem Writes.control {s u : State} (h : Writes s u) : KeepsControl s u where
  arg := (congrArg State.arg h :)
  cmdseq := (congrArg State.cmdseq h :)
  lastcmd := (congrArg State.lastcmd h :)
  done := (congrArg Status.done h.status :)
  pending := (congrArg State.pending h :)
  busData := (congrArg State.busData h :)

theorem WritesOutputs.buf_input {s u : State} (h : WritesOutputs s u) {bid : BufId} (hb : bid.isInput = true) :
    u.buf bid = s.buf bid := by
  cases bid with
  | a => exact (congrArg State.a h :)
  | b => exact (congrArg State.b h :)
  | c => exact (congrArg State.c h :)
  | r => cases hb
  | q => cases hb

theorem WritesOutputs.writes {s u : State} (h : WritesOutputs s u) : Writes s u := by
  unfold WritesOutputs at h
  rw [h]
  rfl

/-- Scalar results may be written in addition. -/
theorem WritesOutputs.setRes {s u : State} (h : WritesOutputs s u) (res : Quad) :
    WritesOutputs s { u with res := res } := by
  unfold WritesOutputs at h ⊢
  rw [h]

/-- Both output buffers and two results: the most that a command but `BUF.COPY` writes. -/
theorem writesOutputs_both (s : State) (xs ys : List Nat) (m n : Nat) :
    WritesOutputs s (((writeOut .q ys (writeOut .r xs s)).setRes0 m).setRes1 n) :=
  WritesOutputs.setRes (u := writeOut .q ys (writeOut .r xs s)) rfl _

/-- `BUF.COPY` writes one buffer. -/
theorem writes_copyInto (s : State) (bid : BufId) (vs : List CellWord) : Writes s (copyInto bid vs s) := by
  cases bid <;> rfl

/-! ### No operand is read from the log -/

theorem arg0_evlog (s : State) (e : Word) : ({ s with evlog := e } : State).arg0 = s.arg0 := rfl
theorem arg1_evlog (s : State) (e : Word) : ({ s with evlog := e } : State).arg1 = s.arg1 := rfl
theorem arg2_evlog (s : State) (e : Word) : ({ s with evlog := e } : State).arg2 = s.arg2 := rfl
theorem arg3_evlog (s : State) (e : Word) : ({ s with evlog := e } : State).arg3 = s.arg3 := rfl
theorem lenOf_evlog (s : State) (e : Word) (bid : BufId) :
    ({ s with evlog := e } : State).lenOf bid = s.lenOf bid := rfl
theorem slice_evlog (s : State) (e : Word) (bid : BufId) (start count : Nat) :
    slice { s with evlog := e } bid start count = slice s bid start count := rfl
theorem vec_evlog (s : State) (e : Word) (bid : BufId) : ({ s with evlog := e } : State).vec bid = s.vec bid := rfl
theorem copyInto_evlog_comm (s : State) (e : Word) (bid : BufId) (vs : List CellWord) :
    copyInto bid vs { s with evlog := e } = { copyInto bid vs s with evlog := e } := by
  cases bid <;> rfl

/-! ### Two runs that differ in `EVLOG` -/

/-- The answers `r` and `r'` of two runs, the second with `EVLOG` read as `e`: both raise one condition, never
`ParseError` (R253), over states equal but for `EVLOG`, the first of which satisfies `P`. -/
def EndsAlike (P : State → Prop) (e : Word) (r r' : Result) : Prop :=
  ∃ k u, k ≠ .parseError ∧ P u ∧ r = raise k u ∧ r' = raise k { u with evlog := e }

namespace EndsAlike

variable {P Q : State → Prop} {e : Word} {s u : State} {a a' b b' : Result}

theorem mono (h : EndsAlike P e a a') (hPQ : ∀ u, P u → Q u) : EndsAlike Q e a a' := by
  obtain ⟨k, u, hk, hu, ha, ha'⟩ := h
  exact ⟨k, u, hk, hPQ u hu, ha, ha'⟩

/-- The first of the two runs. -/
theorem answer (h : EndsAlike P e a a') : ∃ k u, k ≠ .parseError ∧ P u ∧ a = raise k u := by
  obtain ⟨k, u, hk, hu, ha, -⟩ := h
  exact ⟨k, u, hk, hu, ha⟩

theorem raised {k : Cond} (h : P u) (hk : k ≠ .parseError := by decide) :
    EndsAlike P e (raise k u) (raise k { u with evlog := e }) :=
  ⟨k, u, hk, h, rfl, rfl⟩

theorem completed (h : P u) : EndsAlike P e (complete u) (complete { u with evlog := e }) := raised h

theorem ite {c : Prop} [Decidable c] (ha : EndsAlike P e a a') (hb : EndsAlike P e b b') :
    EndsAlike P e (if c then a else b) (if c then a' else b') := by
  split
  · exact ha
  · exact hb

theorem dite {c : Prop} [Decidable c] {f f' : c → Result} {g g' : ¬ c → Result}
    (hf : ∀ h, EndsAlike P e (f h) (f' h)) (hg : ∀ h, EndsAlike P e (g h) (g' h)) :
    EndsAlike P e (if h : c then f h else g h) (if h : c then f' h else g' h) := by
  split
  · exact hf _
  · exact hg _

/-- A check that fails leaves the state as it was (R244). -/
theorem check {c : Prop} [Decidable c] {k : Cond} (hb : EndsAlike (WritesOutputs s) e b b')
    (hk : k ≠ .parseError := by decide) :
    EndsAlike (WritesOutputs s) e (if c then raise k s else b) (if c then raise k { s with evlog := e } else b') :=
  ite (raised rfl hk) hb

/-- Steps 3 and 4 of a command that uses a slot (R86). -/
theorem slot {α : Type} {n : Nat} {slots : Vector α n} {valid : α → Bool} {i : Nat} {go go' : α → Result}
    (h : ∀ t, EndsAlike (WritesOutputs s) e (go t) (go' t)) :
    EndsAlike (WritesOutputs s) e (withBuilt slots valid i s go)
      (withBuilt slots valid i { s with evlog := e } go') :=
  dite (fun _ => ite (h _) (raised rfl)) fun _ => raised rfl

/-- Steps 3 and 4 of a build command (R86). -/
theorem freeSlot {α : Type} {n : Nat} {slots : Vector α n} {valid : α → Bool} {i : Nat} {go go' : i < n → Result}
    (h : ∀ hi, EndsAlike (WritesOutputs s) e (go hi) (go' hi)) :
    EndsAlike (WritesOutputs s) e (withUnbuilt slots valid i s go)
      (withUnbuilt slots valid i { s with evlog := e } go') :=
  dite (fun hi => check (h hi)) fun _ => raised rfl

/-- Steps 3 and 4 of a Reed-Solomon command (R86, R150). -/
theorem code {r : Nat} {go go' : RsSlot → FieldSlot → Result}
    (h : ∀ k t, EndsAlike (WritesOutputs s) e (go k t) (go' k t)) :
    EndsAlike (WritesOutputs s) e (withCode r s go) (withCode r { s with evlog := e } go') :=
  slot fun _ => h _ _

/-- `R` and `RES[0]` as the outputs, whatever is written. -/
theorem vectorAndScalar (xs : List Nat) (n : Nat) :
    EndsAlike (WritesOutputs s) e (complete ((writeOut .r xs s).setRes0 n))
      (complete ((writeOut .r xs { s with evlog := e }).setRes0 n)) := completed rfl

/-- Both ends of `BCH.REPAIR` and `BCH.LOOKUP` (R136, R138). -/
theorem repair (bits : List Nat) (syndrome : Nat) (found : Option (Nat × Nat)) :
    EndsAlike (WritesOutputs s) e (writeRepair bits syndrome found s)
      (writeRepair bits syndrome found { s with evlog := e }) := by
  cases found with
  | none => exact raised rfl
  | some p => exact completed rfl

end EndsAlike

/-- A command that ends, in `s` and in `s` with any other `EVLOG` alike, having written outputs alone. -/
abbrev EndsOverOutputs (f : State → Result) : Prop :=
  ∀ s e, EndsAlike (WritesOutputs s) e (f s) (f { s with evlog := e })

/-! ### The commands, in the order of the opcode table (R83) -/

theorem execSysNop_ends : EndsOverOutputs execSysNop := fun _ _ => .completed rfl

/-! Field Engine (R102, R108 to R112, R115, R116). -/

theorem execGfBuild_ends (f : Nat) : EndsOverOutputs (execGfBuild f) := fun s _ =>
  .freeSlot fun _ => .check <| by
    simp only [arg0_evlog, arg1_evlog, arg2_evlog]
    cases buildTables s.arg0 s.arg1 s.arg2 with
    | none => exact .raised rfl
    | some tables => exact .completed rfl

theorem execGfAdd_ends (f : Nat) : EndsOverOutputs (execGfAdd f) := fun s _ =>
  .slot fun _ => .check <| .completed rfl

theorem execGfMul_ends (f : Nat) : EndsOverOutputs (execGfMul f) := fun s _ =>
  .slot fun _ => .check <| .completed rfl

theorem execGfDiv_ends (f : Nat) : EndsOverOutputs (execGfDiv f) := fun s _ =>
  .slot fun t => .check <| by
    simp only [arg0_evlog, arg1_evlog]
    cases gfDiv t s.arg0 s.arg1 with
    | none => exact .raised rfl
    | some z => exact .completed rfl

theorem execGfExp_ends (f : Nat) : EndsOverOutputs (execGfExp f) := fun s _ =>
  .slot fun _ => .check <| .completed rfl

theorem execGfLog_ends (f : Nat) : EndsOverOutputs (execGfLog f) := fun s _ =>
  .slot fun _ => .check <| .completed rfl

theorem execGfPadd_ends (f : Nat) : EndsOverOutputs (execGfPadd f) := fun s _ =>
  .slot fun _ => .check <| .check <| .check <| .check <| .completed rfl

theorem execGfPmul_ends (f : Nat) : EndsOverOutputs (execGfPmul f) := fun s _ =>
  .slot fun _ => .check <| .check <| .check <| .check <| .check <|
    .completed rfl

/-! BCH Decoder (R133 to R139). -/

theorem execBchBuild_ends (c : Nat) : EndsOverOutputs (execBchBuild c) := fun s _ =>
  .freeSlot fun _ => .check <| .completed rfl

theorem execBchDiv_ends : EndsOverOutputs execBchDiv := fun s _ =>
  .check <| .check <| .check <| .completed rfl

theorem execBchRepair_ends : EndsOverOutputs execBchRepair := fun _ _ =>
  .check <| .check <| .check <| .repair ..

theorem execBchLookup_ends (c : Nat) : EndsOverOutputs (execBchLookup c) := fun _ _ =>
  .slot fun _ => .check <| .check <| .repair ..

theorem execBchSynrd_ends (c : Nat) : EndsOverOutputs (execBchSynrd c) := fun s _ =>
  .slot fun t => .check <| by
    simp only [arg0_evlog]
    cases synAt t.syn s.arg0 with
    | none => exact .completed rfl
    | some entry => exact .completed rfl

/-! Reed-Solomon codec (R152 to R170). -/

/-- The decoder names three conditions alone (R255). -/
theorem rsDecode_error {t : FieldSlot} {k : RsSlot} {recv eras : List Nat} {c : Cond}
    (h : rsDecode t k recv eras = .error c) :
    c = .uncorrectableMessage ∨ c = .locatorNotFound ∨ c = .divisionByZero := by
  simp only [rsDecode] at h
  repeat' split at h
  all_goals cases h <;> simp

theorem rsDecode_error_ne {t : FieldSlot} {k : RsSlot} {recv eras : List Nat} {c : Cond}
    (h : rsDecode t k recv eras = .error c) : c ≠ .parseError := by
  rcases rsDecode_error h with rfl | rfl | rfl <;> decide

theorem execRsCfg_ends (r : Nat) : EndsOverOutputs (execRsCfg r) := fun s _ =>
  .freeSlot fun _ => .dite (fun _ => .check <| .check <| .completed rfl) fun _ => .raised rfl

theorem execRsGpoly_ends (r : Nat) : EndsOverOutputs (execRsGpoly r) := fun _ _ =>
  .code fun _ _ => .completed rfl

theorem execRsEnc_ends (r : Nat) : EndsOverOutputs (execRsEnc r) := fun s _ =>
  .code fun _ _ => .check <| .check <| .completed rfl

theorem execRsSynd_ends (r : Nat) : EndsOverOutputs (execRsSynd r) := fun _ _ =>
  .code fun _ _ => .check <| .check <| .vectorAndScalar ..

theorem execRsEloc_ends (r : Nat) : EndsOverOutputs (execRsEloc r) := fun _ _ =>
  .code fun _ _ => .check <| .check <| .check <| .check <| .check <| .vectorAndScalar ..

theorem execRsEpos_ends (r : Nat) : EndsOverOutputs (execRsEpos r) := fun s _ =>
  .code fun k t => .check <| .check <| .check <| by
    simp only [arg0_evlog, vec_evlog]
    cases rsEpos t k (s.vec .a) s.arg0 with
    | none => exact .raised rfl
    | some pos => exact .vectorAndScalar ..

theorem execRsCorr_ends (r : Nat) : EndsOverOutputs (execRsCorr r) := fun s _ =>
  .code fun k t => .check <| .check <| .check <| .check <| .check <| .check <| by
    simp only [vec_evlog]
    cases rsCorr t k (s.vec .a) (s.vec .b) (s.vec .c) with
    | none => exact .raised rfl
    | some out => exact .completed rfl

theorem execRsDec_ends (r : Nat) : EndsOverOutputs (execRsDec r) := fun s _ =>
  .code fun k t => .check <| .check <| .check <| .check <| by
    simp only [vec_evlog]
    cases hd : rsDecode t k (s.vec .a) (s.vec .b) with
    | error c => exact .raised rfl (rsDecode_error_ne hd)
    | ok d => exact .completed rfl

theorem execRsCheck_ends (r : Nat) : EndsOverOutputs (execRsCheck r) := fun s _ =>
  .code fun _ _ => .check <| .check <| .check <| .completed rfl

theorem execRsFix_ends (r : Nat) : EndsOverOutputs (execRsFix r) := fun s _ =>
  .code fun k t => .check <| .check <| .check <| by
    simp only [arg0_evlog, arg1_evlog, vec_evlog]
    cases hd : rsFix t k s.arg1 (s.vec .a) with
    | error c => exact .raised (writesOutputs_both ..) (rsDecode_error_ne hd)
    | ok d => exact .completed (writesOutputs_both ..)

/-! Puncture Codec (R191 to R196). -/

theorem execCvEnc_ends : EndsOverOutputs execCvEnc := fun _ _ =>
  .check <| .check <| .check <| .vectorAndScalar ..

theorem execPnCfg_ends (p : Nat) : EndsOverOutputs (execPnCfg p) := fun s _ =>
  .freeSlot fun _ => .check <| .completed rfl

theorem execPnPunc_ends (p : Nat) : EndsOverOutputs (execPnPunc p) := fun s _ =>
  .slot fun _ => .check <| .check <| .completed rfl

theorem execPnDepunc_ends (p : Nat) : EndsOverOutputs (execPnDepunc p) := fun s _ =>
  .slot fun _ => .check <| .check <| .check <| .completed rfl

/-! Burst Framer (R206 to R212). -/

theorem execFrNorm_ends : EndsOverOutputs execFrNorm := fun s _ =>
  .check <| .check <| .check <| .check <| .completed rfl

theorem execFrDeint_ends : EndsOverOutputs execFrDeint := fun _ _ =>
  .check <| .check <| .check <| .vectorAndScalar ..

theorem execFrCsum16_ends : EndsOverOutputs execFrCsum16 := fun s _ =>
  .check <| .completed rfl

theorem execFrRev8_ends : EndsOverOutputs execFrRev8 := fun s _ =>
  .check <| .completed rfl

/-- Every command but `BUF.COPY`, which alone writes an input buffer (R31). -/
theorem exec_endsOverOutputs {i : Instr} (hi : i ≠ .bufCopy) : EndsOverOutputs (exec i) := by
  cases i with
  | sysNop => exact execSysNop_ends
  | gfBuild f => exact execGfBuild_ends f
  | gfAdd f => exact execGfAdd_ends f
  | gfMul f => exact execGfMul_ends f
  | gfDiv f => exact execGfDiv_ends f
  | gfExp f => exact execGfExp_ends f
  | gfLog f => exact execGfLog_ends f
  | gfPadd f => exact execGfPadd_ends f
  | gfPmul f => exact execGfPmul_ends f
  | bchBuild c => exact execBchBuild_ends c
  | bchDiv => exact execBchDiv_ends
  | bchRepair => exact execBchRepair_ends
  | bchLookup c => exact execBchLookup_ends c
  | bchSynrd c => exact execBchSynrd_ends c
  | rsCfg r => exact execRsCfg_ends r
  | rsGpoly r => exact execRsGpoly_ends r
  | rsEnc r => exact execRsEnc_ends r
  | rsSynd r => exact execRsSynd_ends r
  | rsEloc r => exact execRsEloc_ends r
  | rsEpos r => exact execRsEpos_ends r
  | rsCorr r => exact execRsCorr_ends r
  | rsDec r => exact execRsDec_ends r
  | rsCheck r => exact execRsCheck_ends r
  | rsFix r => exact execRsFix_ends r
  | cvEnc => exact execCvEnc_ends
  | pnCfg p => exact execPnCfg_ends p
  | pnPunc p => exact execPnPunc_ends p
  | pnDepunc p => exact execPnDepunc_ends p
  | frNorm => exact execFrNorm_ends
  | frDeint => exact execFrDeint_ends
  | frCsum16 => exact execFrCsum16_ends
  | frRev8 => exact execFrRev8_ends
  | bufCopy => exact absurd rfl hi

/-- `BUF.COPY` (R227): an input buffer may change too. -/
theorem execBufCopy_ends (s : State) (e : Word) :
    EndsAlike (Writes s) e (execBufCopy s) (execBufCopy { s with evlog := e }) := by
  have hs : Writes s s := rfl
  simp only [execBufCopy, arg0_evlog, arg1_evlog, arg2_evlog, arg3_evlog, lenOf_evlog, slice_evlog, copyInto_evlog_comm]
  cases copyOperands s.arg0 s.arg1 s.arg2 s.arg3 with
  | none => exact .raised hs
  | some bufs => exact .ite (.raised hs) <| .ite (.raised hs) <| .completed (writes_copyInto s ..)

/-- Every command ends with one condition (R240, R243), having written nothing that `Writes` keeps, and ends alike
whatever `EVLOG` holds (R25). -/
theorem exec_ends (i : Instr) (s : State) (e : Word) :
    EndsAlike (Writes s) e (exec i s) (exec i { s with evlog := e }) := by
  by_cases hi : i = .bufCopy
  · subst hi
    exact execBufCopy_ends s e
  · exact (exec_endsOverOutputs hi s e).mono fun _ h => h.writes

end Sys2Proof.Machine
end

section
/-! PROOFS. Input buffers (10_state.md R31) and the sticky log (R25). -/

namespace Sys2Proof.Machine

/-! ### Input buffers -/

/-- A buffer that is the same data reads the same. -/
theorem keepsBuffer_of_buf_eq {s t : State} {bid : BufId} (h : t.buf bid = s.buf bid) : KeepsBuffer s t bid where
  len := by rw [State.lenOf, State.lenOf, h]
  cells i := by rw [readCell, readCell, h]

/-- Settles O10: every other command has written outputs alone when it ends. -/
theorem onlyBufCopyWritesInputs : Obligations.OnlyBufCopyWritesInputs := by
  intro s t i bid h hi hb
  obtain ⟨k, u, -, hu, hr⟩ := (exec_endsOverOutputs hi s s.evlog).answer
  obtain rfl : t = endWith k u := raise_eq_next.1 (hr ▸ h)
  exact keepsBuffer_of_buf_eq (by rw [endWith_buf, hu.buf_input hb])

/-! ### The log -/

theorem Cond.code_eq_zero {k : Cond} : k.code = 0 ↔ k = .ok := by cases k <;> decide

/-- The bit a condition sets, without the case of `OK`: its code is 0, and bit 0 is nobody's (R25). -/
theorem evlogRecord_bit_code (k : Cond) (e : Word) {n : Nat} (h : n < 32) :
    (evlogRecord k e).getLsbD n = (e.getLsbD n || decide (1 ≤ n ∧ n = k.code)) := by
  have hc : (k ≠ .ok ∧ n = k.code) ↔ (1 ≤ n ∧ n = k.code) := by
    rw [ne_eq, ← Cond.code_eq_zero]
    omega
  rw [evlogRecord_bit k e n h, decide_eq_decide.2 hc]

/-- What a command does to the log, and that it does the rest alike whatever the log holds. -/
theorem exec_evlog {i : Instr} {s t : State} (h : exec i s = .next t) :
    t.evlog = evlogRecord t.status.cond s.evlog ∧
      ∀ e, exec i { s with evlog := e } = .next { t with evlog := evlogRecord t.status.cond e } := by
  have ends : ∀ e, ∃ u, Writes s u ∧ t = endWith t.status.cond u ∧
      exec i { s with evlog := e } = raise t.status.cond { u with evlog := e } := by
    intro e
    obtain ⟨k, u, -, hu, hr, hr'⟩ := exec_ends i s e
    obtain rfl : t = endWith k u := raise_eq_next.1 (hr ▸ h)
    exact ⟨u, hu, rfl, hr'⟩
  constructor
  · obtain ⟨u, hu, ht, -⟩ := ends 0
    calc t.evlog = (endWith t.status.cond u).evlog := congrArg State.evlog ht
      _ = evlogRecord t.status.cond s.evlog := by rw [endWith_evlog, hu.evlog]
  · intro e
    obtain ⟨u, -, ht, hr⟩ := ends e
    rw [hr, raise_eq_next]
    conv_lhs => rw [ht]
    rfl

/-- An accepted word of no row: acceptance, then `IllegalCommand` (R27, R85). -/
theorem step_illegal {s : State} {rest : List HostAccess} {w : Word} {x : DecodeError}
    (hp : s.pending = .write 0x1F w :: rest) (hh : s.status.halted = false) (hd : decode w = .error x) :
    step s = .next (endWith .illegalCommand (accept w { s with pending := rest })) := by
  have hc := perform_cmd { s with pending := rest } w
  simp only [hh, hd] at hc
  rw [step_of_pending hp]
  exact hc

/-- The only mapped index of `CTRL` (R23). -/
theorem targetOf_eq_ctrl {idx : Nat} (h : targetOf idx = some .ctrl) : idx = 0x01 := by
  unfold targetOf at h
  split at h
  · unfold registerAt at h
    split at h <;> cases h
    rfl
  · unfold cellTarget at h
    split at h <;> cases h

/-- An access that leaves the log alone does what a command that ends with `OK` does. -/
theorem evlogRecord_of_unchanged {s t : State} (h : t.evlog = s.evlog) : ∃ k, t.evlog = evlogRecord k s.evlog :=
  ⟨.ok, by rw [h, evlogRecord_ok]⟩

/-- A write to `CMD`: the log is left alone (halted), or records the condition of the command or of the illegal word. -/
theorem writeCmd_evlog {w : Word} {s t : State} (h : writeCmd w s = .next t) :
    ∃ k, t.evlog = evlogRecord k s.evlog := by
  unfold writeCmd runCommand at h
  split at h
  · cases h
    exact evlogRecord_of_unchanged rfl
  · split at h
    · exact ⟨_, (exec_evlog h).1⟩
    · obtain rfl := raise_eq_next.1 h
      exact ⟨.illegalCommand, rfl⟩

/-- What a write to a mapped index can do to the log: reset empties it, the host clears bits, a command records its
condition. -/
theorem writeTarget_evlog_cases {v : Word} {s t : State} {target : Target} (h : writeTarget v s target = .next t) :
    (target = .ctrl ∧ v.getLsbD 0 = true ∧ t.evlog = 0) ∨ t.evlog = evlogClear v s.evlog ∨
      ∃ k, t.evlog = evlogRecord k s.evlog := by
  cases target with
  | ctrl =>
    cases h
    by_cases hv : v.getLsbD 0 = true
    · exact .inl ⟨rfl, hv, by rw [writeCtrl, if_pos hv]; rfl⟩
    · exact .inr (.inr (evlogRecord_of_unchanged (by rw [writeCtrl, if_neg hv])))
  | evlog => cases h; exact .inr (.inl rfl)
  | cmd => exact .inr (.inr (writeCmd_evlog h))
  | len bid => cases h; exact .inr (.inr (evlogRecord_of_unchanged (by split <;> simp)))
  | cell bid i => cases h; exact .inr (.inr (evlogRecord_of_unchanged (by split <;> simp)))
  | id | status | cmdseq | lastcmd | arg i | res i => cases h; exact .inr (.inr (evlogRecord_of_unchanged rfl))

/-- All that an access can do to the log: reset empties it, the host clears bits, a command records its condition. -/
theorem perform_evlog_cases {x : HostAccess} {s t : State} (h : perform x s = .next t) :
    (x.resets = true ∧ t.evlog = 0) ∨ (∃ v, t.evlog = evlogClear v s.evlog) ∨
      ∃ k, t.evlog = evlogRecord k s.evlog := by
  cases x with
  | reset =>
    cases h
    exact .inl ⟨rfl, rfl⟩
  | read idx =>
    simp only [perform] at h
    split at h
    · cases h
      exact .inr (.inr (evlogRecord_of_unchanged rfl))
    · cases h
  | write idx v =>
    simp only [perform] at h
    split at h
    next target htarget =>
      obtain ⟨rfl, hv, he⟩ | hclear | hrecord := writeTarget_evlog_cases h
      · exact .inl ⟨by simp [HostAccess.resets, targetOf_eq_ctrl htarget, hv], he⟩
      · exact .inr (.inl ⟨v, hclear⟩)
      · exact .inr (.inr hrecord)
    · cases h

/-- Bit 0 is never set: no condition other than `OK` has code 0 (R25). -/
theorem perform_evlog_bit0 {x : HostAccess} {s t : State} (h : perform x s = .next t)
    (h0 : s.evlog.getLsbD 0 = false) : t.evlog.getLsbD 0 = false := by
  obtain ⟨-, he⟩ | ⟨v, he⟩ | ⟨k, he⟩ := perform_evlog_cases h
  · rw [he]; rfl
  · rw [he, evlogClear_bit _ _ _ (by decide), h0, Bool.false_and]
  · rw [he, evlogRecord_bit_code _ _ (by decide), h0]; rfl

/-- Bit 7 stays set until reset: the host's clear spares it (R25). -/
theorem perform_evlog_bit7 {x : HostAccess} {s t : State} (h : perform x s = .next t)
    (h7 : s.evlog.getLsbD 7 = true) (hx : x.resets = false) : t.evlog.getLsbD 7 = true := by
  obtain ⟨hreset, -⟩ | ⟨v, he⟩ | ⟨k, he⟩ := perform_evlog_cases h
  · rw [hx] at hreset; cases hreset
  · rw [he, evlogClear_bit _ _ _ (by decide), h7]; simp
  · rw [he, evlogRecord_bit _ _ _ (by decide), h7, Bool.true_or]

/-- Settles O18, clause by clause: a command, an illegal word, the host's write, any access, reset. -/
theorem evlogRules : Obligations.EvlogRules := by
  refine ⟨fun s t i h => ?command, fun s rest w x hp hh hd => ?illegal, fun s rest v hp => ?clear,
    fun s t x rest hp h => ?access, rfl⟩
  case command =>
    obtain ⟨hlog, hblind⟩ := exec_evlog h
    exact ⟨fun n hn => by rw [hlog, evlogRecord_bit_code _ _ hn], fun e => ⟨_, hblind e⟩⟩
  case illegal =>
    have hstep := step_illegal hp hh hd
    refine ⟨⟨_, hstep, rfl, fun n hn => ?_⟩, fun t ht e => ?_⟩
    · simp [evlogRecord_bit .illegalCommand s.evlog n hn, Cond.code]
    · obtain rfl : endWith .illegalCommand (accept w { s with pending := rest }) = t := by
        rw [hstep] at ht
        cases ht
        rfl
      exact ⟨evlogRecord .illegalCommand e, step_illegal (s := { s with evlog := e }) hp hh hd⟩
  case clear =>
    exact ⟨evlogClear v s.evlog, step_of_pending hp, fun n hn => evlogClear_bit v s.evlog n hn⟩
  case access =>
    rw [step_of_pending hp] at h
    exact ⟨fun h0 => perform_evlog_bit0 h h0, fun h7 hx => perform_evlog_bit7 h h7 hx⟩

end Sys2Proof.Machine
end

section
/-! PROOFS. Which indices the host may access (20_memory.md R60, R64): the mapped ones are those that name a target, and
an access to a target always answers a next state. -/

namespace Sys2Proof.Machine

open Sys2Proof.Config

/-! ### The mapped indices are those that name something -/

/-- The register space (R23): the reserved indices are 0x06, 0x07 and 0x15 to 0x1E. -/
theorem registerAt_isSome {idx : Nat} (h : idx < 0x20) : (registerAt idx).isSome = mappedIndex idx := by
  have all : ∀ i : Fin 0x20, (registerAt i).isSome = mappedIndex i := by decide
  exact all ⟨idx, h⟩

/-- The windows are the words whose index divided by `VLEN` is 1 to 5 (R60). -/
theorem cellTarget_isSome_iff (idx : Nat) : (cellTarget idx).isSome ↔ 1 ≤ idx / VLEN ∧ idx / VLEN ≤ 5 := by
  unfold cellTarget
  generalize idx / VLEN = window
  match window with
  | 0 | _ + 6 => simp
  | 1 | 2 | 3 | 4 | 5 => simp

/-- Beyond the register space only the windows are mapped (R60). -/
theorem mappedIndex_iff_of_ge {idx : Nat} (h : 0x20 ≤ idx) :
    mappedIndex idx = true ↔ 1 ≤ idx / VLEN ∧ idx / VLEN ≤ 5 := by
  simp only [mappedIndex, VLEN, Bool.or_eq_true, Bool.and_eq_true, decide_eq_true_eq, beq_iff_eq]
  omega

/-- An index is mapped exactly when it names something (R60, R64). -/
theorem targetOf_isSome (idx : Nat) : (targetOf idx).isSome = mappedIndex idx := by
  unfold targetOf
  split
  next h => exact registerAt_isSome h
  next h => rw [Bool.eq_iff_iff, cellTarget_isSome_iff, mappedIndex_iff_of_ge (Nat.le_of_not_lt h)]

theorem targetOf_eq_none {idx : Nat} (h : mappedIndex idx = false) : targetOf idx = none := by
  rwa [← targetOf_isSome, Option.isSome_eq_false_iff, Option.isNone_iff_eq_none] at h

theorem targetOf_eq_some {idx : Nat} (h : mappedIndex idx = true) : ∃ target, targetOf idx = some target := by
  rwa [← targetOf_isSome, Option.isSome_iff_exists] at h

/-! ### Accesses to a target answer -/

/-- A command always ends, with one condition (R243). -/
theorem exec_answers (i : Instr) (s : State) : ∃ t, exec i s = .next t := by
  obtain ⟨k, u, -, -, h⟩ := (exec_ends i s s.evlog).answer
  exact ⟨endWith k u, by rw [h, raise_eq_next]⟩

/-- A write to `CMD` is ignored, runs a command, or ends as an illegal word does (R27, R85). -/
theorem writeCmd_answers (w : Word) (s : State) : ∃ t, writeCmd w s = .next t := by
  unfold writeCmd runCommand
  split
  · exact ⟨s, rfl⟩
  · split
    · exact exec_answers _ _
    · exact ⟨_, rfl⟩

/-- Every write to a target answers; only a write to `CMD` does more than store (R23, R27). -/
theorem writeTarget_answers (v : Word) (s : State) (target : Target) : ∃ t, writeTarget v s target = .next t := by
  cases target with
  | cmd => exact writeCmd_answers v s
  | id | ctrl | status | evlog | cmdseq | lastcmd | arg i | res i | len bid | cell bid i => exact ⟨_, rfl⟩

/-! ### What an access answers, by its index -/

theorem perform_read_unmapped {idx : Nat} (h : mappedIndex idx = false) (s : State) :
    perform (.read idx) s = .refused (.unmappedRead idx) := by
  simp only [perform, targetOf_eq_none h]

theorem perform_write_unmapped {idx : Nat} (h : mappedIndex idx = false) (v : Word) (s : State) :
    perform (.write idx v) s = .refused (.unmappedWrite idx) := by
  simp only [perform, targetOf_eq_none h]

theorem perform_read_answers {idx : Nat} (h : mappedIndex idx = true) (s : State) :
    ∃ t, perform (.read idx) s = .next t := by
  obtain ⟨target, htarget⟩ := targetOf_eq_some h
  exact ⟨{ s with busData := some (readTarget s target) }, by simp only [perform, htarget]⟩

theorem perform_write_answers {idx : Nat} (h : mappedIndex idx = true) (v : Word) (s : State) :
    ∃ t, perform (.write idx v) s = .next t := by
  obtain ⟨target, htarget⟩ := targetOf_eq_some h
  simpa only [perform, htarget] using writeTarget_answers v s target

/-- Settles O17: a step performs the oldest access, whose answer its index decides. -/
theorem unmappedIsRefused : Obligations.UnmappedIsRefused := by
  intro s rest idx v
  refine ⟨fun hp => ?read, fun hp => ?write⟩
  case read =>
    rw [step_of_pending hp]
    exact ⟨fun h => perform_read_unmapped h _, fun h => perform_read_answers h _⟩
  case write =>
    rw [step_of_pending hp]
    exact ⟨fun h => perform_write_unmapped h v _, fun h => perform_write_answers h v _⟩

end Sys2Proof.Machine
end

section
/-! PROOFS. Division over GF(2) (42_bch.md R131, R132): the carry-less product, and `gf2_rem` as the one remainder of
its dividend, from which every fact about it follows. -/

namespace Sys2Proof.Machine

/-! ### Bit lengths (00_scope.md R11) -/

/-- The degree of a polynomial given as a mask; as in the source, that of 0 is taken to be 0. -/
theorem bitlen_sub_one (v : Nat) : bitlen v - 1 = v.log2 := by
  unfold bitlen
  split
  next h => rw [h, Nat.log2_zero]
  next => rfl

theorem bitlen_le_iff {v n : Nat} : bitlen v ≤ n ↔ v < 2 ^ n := by
  unfold bitlen
  split
  next h => simp [h]
  next h => rw [Nat.succ_le_iff, Nat.log2_lt h]

theorem lt_two_pow_bitlen (v : Nat) : v < 2 ^ bitlen v := bitlen_le_iff.1 le_rfl

/-- A word whose highest place is clear is a place shorter. -/
theorem lt_two_pow_of_testBit_eq_false {v n : Nat} (h : v < 2 ^ (n + 1)) (hn : v.testBit n = false) : v < 2 ^ n := by
  by_contra hge
  have htop := Nat.testBit_of_two_pow_le_and_two_pow_add_one_gt (Nat.le_of_not_lt hge) h
  rw [hn] at htop
  cases htop

/-! ### The carry-less product -/

/-- The sum of `carryless` over the places of `a` below `n`. -/
def carrylessBelow (n a b : Nat) : Nat :=
  (List.range n).foldl (fun acc k => if a.testBit k then acc ^^^ (b <<< k) else acc) 0

theorem carrylessBelow_zero (a b : Nat) : carrylessBelow 0 a b = 0 := rfl

theorem carrylessBelow_succ (n a b : Nat) :
    carrylessBelow (n + 1) a b =
      if a.testBit n then carrylessBelow n a b ^^^ (b <<< n) else carrylessBelow n a b := by
  simp only [carrylessBelow, List.range_succ, List.foldl_append, List.foldl_cons, List.foldl_nil]

/-- Places above the factor add nothing. -/
theorem carryless_eq_below {n a : Nat} (h : a < 2 ^ n) (b : Nat) : carryless a b = carrylessBelow n a b := by
  induction n, bitlen_le_iff.2 h using Nat.le_induction with
  | base => rfl
  | succ n hn ih =>
    have ha : a < 2 ^ n := bitlen_le_iff.1 hn
    rw [carrylessBelow_succ, Nat.testBit_lt_two_pow ha, if_neg Bool.false_ne_true, ih ha]

theorem carryless_zero (b : Nat) : carryless 0 b = 0 := rfl

theorem carrylessBelow_xor (n a a' b : Nat) :
    carrylessBelow n (a ^^^ a') b = carrylessBelow n a b ^^^ carrylessBelow n a' b := by
  induction n with
  | zero => simp only [carrylessBelow_zero, Nat.xor_self]
  | succ n ih =>
    simp only [carrylessBelow_succ, Nat.testBit_xor, ih]
    cases a.testBit n <;> cases a'.testBit n <;> simp [Nat.xor_assoc, Nat.xor_comm, Nat.xor_left_comm]

/-- The product distributes over addition. -/
theorem carryless_xor (a a' b : Nat) : carryless (a ^^^ a') b = carryless a b ^^^ carryless a' b := by
  have ha : a < 2 ^ max (bitlen a) (bitlen a') := bitlen_le_iff.1 (le_max_left ..)
  have ha' : a' < 2 ^ max (bitlen a) (bitlen a') := bitlen_le_iff.1 (le_max_right ..)
  rw [carryless_eq_below ha, carryless_eq_below ha', carryless_eq_below (Nat.xor_lt_two_pow ha ha'), carrylessBelow_xor]

theorem carrylessBelow_two_pow (n k b : Nat) : carrylessBelow n (2 ^ k) b = if k < n then b <<< k else 0 := by
  induction n with
  | zero => rfl
  | succ n ih =>
    rw [carrylessBelow_succ, Nat.testBit_two_pow, ih]
    obtain hk | rfl | hk := Nat.lt_trichotomy k n
    · simp [hk, hk.ne, Nat.lt_succ_of_lt hk]
    · simp
    · simp [hk.ne', Nat.not_lt_of_gt hk, Nat.not_lt_of_ge hk]

/-- Multiplying by `x^k` shifts. -/
theorem carryless_two_pow (k b : Nat) : carryless (2 ^ k) b = b <<< k := by
  rw [carryless_eq_below (Nat.pow_lt_pow_succ Nat.one_lt_two), carrylessBelow_two_pow, if_pos k.lt_succ_self]

theorem carrylessBelow_lt (n a b : Nat) : carrylessBelow n a b < 2 ^ (b.log2 + n) := by
  induction n with
  | zero => exact Nat.two_pow_pos _
  | succ n ih =>
    have hacc : carrylessBelow n a b < 2 ^ (b.log2 + (n + 1)) :=
      ih.trans_le (Nat.pow_le_pow_right Nat.two_pos (by omega))
    have hshift : b <<< n < 2 ^ (b.log2 + (n + 1)) := by
      rw [← Nat.add_assoc, Nat.add_right_comm]
      exact Nat.shiftLeft_lt Nat.lt_log2_self
    rw [carrylessBelow_succ]
    split
    · exact Nat.xor_lt_two_pow hacc hshift
    · exact hacc

/-- The leading places of the factors meet in the leading place of the product. -/
theorem carryless_testBit_top {a b : Nat} (ha : a ≠ 0) (hb : b ≠ 0) :
    (carryless a b).testBit (b.log2 + a.log2) = true := by
  have hbelow := Nat.testBit_lt_two_pow (carrylessBelow_lt a.log2 a b)
  have hshift : (b <<< a.log2).testBit (b.log2 + a.log2) = true := by
    simp [Nat.testBit_shiftLeft, Nat.testBit_log2 hb]
  rw [carryless_eq_below Nat.lt_log2_self, carrylessBelow_succ, if_pos (Nat.testBit_log2 ha), Nat.testBit_xor, hbelow,
    hshift, Bool.false_xor]

/-- A multiple below the degree of a polynomial is the zero multiple. -/
theorem eq_zero_of_carryless_lt {q poly : Nat} (hpoly : poly ≠ 0) (h : carryless q poly < 2 ^ poly.log2) : q = 0 := by
  by_contra hq
  have hge : 2 ^ (poly.log2 + q.log2) ≤ carryless q poly := Nat.ge_two_pow_of_testBit (carryless_testBit_top hq hpoly)
  have hmono : 2 ^ poly.log2 ≤ 2 ^ (poly.log2 + q.log2) := Nat.pow_le_pow_right Nat.two_pos (Nat.le_add_right ..)
  omega

/-! ### Remainders -/

/-- `r` is a remainder of `w` on division by `poly`: it differs from `w` by a multiple, and is below the degree. -/
structure IsRemainder (poly w r : Nat) : Prop where
  multiple : ∃ q, w = carryless q poly ^^^ r
  lt : r < 2 ^ poly.log2

namespace IsRemainder

variable {poly w w' r r' : Nat}

/-- A word below the degree is its own remainder. -/
theorem of_lt (h : w < 2 ^ poly.log2) : IsRemainder poly w w := ⟨⟨0, by rw [carryless_zero, Nat.zero_xor]⟩, h⟩

/-- A multiple leaves 0. -/
theorem of_multiple (q poly : Nat) : IsRemainder poly (carryless q poly) 0 :=
  ⟨⟨q, (Nat.xor_zero _).symm⟩, Nat.two_pow_pos _⟩

theorem xor (h : IsRemainder poly w r) (h' : IsRemainder poly w' r') : IsRemainder poly (w ^^^ w') (r ^^^ r') := by
  obtain ⟨⟨q, rfl⟩, hr⟩ := h
  obtain ⟨⟨q', rfl⟩, hr'⟩ := h'
  refine ⟨⟨q ^^^ q', ?_⟩, Nat.xor_lt_two_pow hr hr'⟩
  rw [carryless_xor]
  ac_rfl

/-- One subtraction of the division: a shifted generator leaves the remainder as it is. -/
theorem of_xor_shiftLeft {k : Nat} (h : IsRemainder poly (w ^^^ (poly <<< k)) r) : IsRemainder poly w r := by
  have hk := h.xor (of_multiple (2 ^ k) poly)
  rwa [carryless_two_pow, Nat.xor_xor_cancel_right, Nat.xor_zero] at hk

/-- Two remainders of one word differ by a multiple below the degree, which is 0. -/
theorem unique (hpoly : poly ≠ 0) (h : IsRemainder poly w r) (h' : IsRemainder poly w r') : r = r' := by
  have hdiff := h.xor h'
  rw [Nat.xor_self] at hdiff
  obtain ⟨⟨q, hq⟩, hlt⟩ := hdiff
  have hmul : carryless q poly = r ^^^ r' := Nat.eq_of_xor_eq_zero hq.symm
  obtain rfl := eq_zero_of_carryless_lt hpoly (hmul ▸ hlt)
  exact Nat.eq_of_xor_eq_zero (hmul ▸ carryless_zero poly)

end IsRemainder

/-! ### `gf2_rem` -/

/-- The place the loop looks at is clear after its step (R131): it was, or the leading place of the generator clears
it. -/
theorem gf2Loop_step_lt {poly p w : Nat} (hpoly : poly ≠ 0) (hp : poly.log2 ≤ p) (hw : w < 2 ^ (p + 1)) :
    (if w.testBit p then w ^^^ (poly <<< (p - poly.log2)) else w) < 2 ^ p := by
  have hlen : poly <<< (p - poly.log2) < 2 ^ (p + 1) := by
    have h := Nat.shiftLeft_lt (m := p - poly.log2) (Nat.lt_log2_self (n := poly))
    rwa [Nat.add_right_comm, Nat.add_sub_cancel' hp] at h
  have htop : (poly <<< (p - poly.log2)).testBit p = true := by
    simp [Nat.testBit_shiftLeft, Nat.sub_sub_self hp, Nat.testBit_log2 hpoly]
  split
  next hbit =>
    refine lt_two_pow_of_testBit_eq_false (Nat.xor_lt_two_pow hw hlen) ?_
    rw [Nat.testBit_xor, hbit, htop, Bool.xor_self]
  next hbit => exact lt_two_pow_of_testBit_eq_false hw (Bool.eq_false_of_not_eq_true hbit)

theorem gf2Loop_isRemainder {poly p w : Nat} (hpoly : poly ≠ 0) (hw : w < 2 ^ p) :
    IsRemainder poly w (gf2Loop poly poly.log2 p w) := by
  induction p generalizing w with
  | zero => exact .of_lt (hw.trans_le Nat.one_le_two_pow)
  | succ p ih =>
    unfold gf2Loop
    split
    next hp => exact .of_lt (hw.trans_le (Nat.pow_le_pow_right Nat.two_pos hp))
    next hp =>
      have hstep := ih (gf2Loop_step_lt hpoly (Nat.le_of_not_lt hp) hw)
      by_cases hbit : w.testBit p = true
      · rw [if_pos hbit] at hstep ⊢
        exact hstep.of_xor_shiftLeft
      · rw [if_neg hbit] at hstep ⊢
        exact hstep

/-- `gf2_rem` is a remainder of the polynomial division (R132 a). -/
theorem gf2Rem_isRemainder {poly L w : Nat} (hpoly : poly ≠ 0) (hw : w < 2 ^ L) :
    IsRemainder poly w (gf2Rem poly L w) := by
  rw [gf2Rem, bitlen_sub_one]
  exact gf2Loop_isRemainder hpoly hw

/-- As a remainder is unique, `gf2_rem` is whatever is shown to be one. -/
theorem IsRemainder.eq_gf2Rem {poly L w r : Nat} (h : IsRemainder poly w r) (hpoly : poly ≠ 0) (hw : w < 2 ^ L) :
    r = gf2Rem poly L w :=
  h.unique hpoly (gf2Rem_isRemainder hpoly hw)

theorem gf2Rem_of_le {poly L w : Nat} (hpoly : poly ≠ 0) (hw : w < 2 ^ L) (hL : L ≤ poly.log2) : gf2Rem poly L w = w :=
  ((IsRemainder.of_lt (hw.trans_le (Nat.pow_le_pow_right Nat.two_pos hL))).eq_gf2Rem hpoly hw).symm

/-- Linearity (R132 b). -/
theorem gf2Rem_xor {poly L w v : Nat} (hpoly : poly ≠ 0) (hw : w < 2 ^ L) (hv : v < 2 ^ L) :
    gf2Rem poly L (w ^^^ v) = gf2Rem poly L w ^^^ gf2Rem poly L v :=
  (((gf2Rem_isRemainder hpoly hw).xor (gf2Rem_isRemainder hpoly hv)).eq_gf2Rem hpoly (Nat.xor_lt_two_pow hw hv)).symm

/-- A syndrome is 0 exactly for codewords (R132 c). -/
theorem gf2Rem_eq_zero_iff {poly L w : Nat} (hpoly : poly ≠ 0) (hw : w < 2 ^ L) :
    gf2Rem poly L w = 0 ↔ ∃ q, w = carryless q poly := by
  constructor
  · intro h
    obtain ⟨q, hq⟩ := (gf2Rem_isRemainder hpoly hw).multiple
    exact ⟨q, by rwa [h, Nat.xor_zero] at hq⟩
  · rintro ⟨q, rfl⟩
    exact ((IsRemainder.of_multiple q poly).eq_gf2Rem hpoly hw).symm

/-- Leading zeros do not matter (R132 d). -/
theorem gf2Rem_of_length_le {poly L L' w : Nat} (hpoly : poly ≠ 0) (hw : w < 2 ^ L) (hL : L ≤ L') :
    gf2Rem poly L' w = gf2Rem poly L w :=
  (gf2Rem_isRemainder hpoly (hw.trans_le (Nat.pow_le_pow_right Nat.two_pos hL))).eq_gf2Rem hpoly hw

/-- Every word is a multiple of the polynomial 1 (R132 e). -/
theorem gf2Rem_one {L w : Nat} (hw : w < 2 ^ L) : gf2Rem 1 L w = 0 :=
  Nat.lt_one_iff.1 (gf2Rem_isRemainder Nat.one_ne_zero hw).lt

/-- Settles O32, fact by fact (R132 a to e): `gf2_rem` is the one remainder of its word. -/
theorem remainderFacts : Obligations.RemainderFacts := by
  intro poly L w hpos hw
  have hpoly : poly ≠ 0 := Nat.one_le_iff_ne_zero.1 hpos
  have hrem := gf2Rem_isRemainder hpoly hw
  simp only [bitlen_sub_one]
  refine ⟨⟨hrem.multiple, hrem.lt, fun q r hq hr => ?unique, gf2Rem_of_le hpoly hw⟩, fun v => gf2Rem_xor hpoly hw,
    gf2Rem_eq_zero_iff hpoly hw, fun L' => gf2Rem_of_length_le hpoly hw, ?one⟩
  case unique => exact IsRemainder.eq_gf2Rem ⟨⟨q, hq⟩, hr⟩ hpoly hw
  case one =>
    rintro rfl
    exact gf2Rem_one hw

end Sys2Proof.Machine
end

section
/-! PROOFS. The Puncture Codec (44_puncture.md R190, R194 to R197): the encoder's register and outputs, and what puncture
and depuncture do to each place. -/

namespace Sys2Proof.Machine

/-! ### One bit into the encoder -/

/-- The register after one more input bit (R190). -/
def shiftIn (K reg b : Nat) : Nat := ((reg <<< 1) ||| b) &&& (2 ^ K - 1)

/-- The two output bits of a register, and after them those of the other input bits (R190). -/
theorem convEncode_cons_fst (tapsA tapsB K reg b : Nat) (bits : List Nat) :
    (convEncode tapsA tapsB K reg (b :: bits)).1 =
      (parityOf K (shiftIn K reg b &&& tapsA)).toNat :: (parityOf K (shiftIn K reg b &&& tapsB)).toNat ::
        (convEncode tapsA tapsB K (shiftIn K reg b) bits).1 := rfl

theorem convEncode_cons_snd (tapsA tapsB K reg b : Nat) (bits : List Nat) :
    (convEncode tapsA tapsB K reg (b :: bits)).2 = (convEncode tapsA tapsB K (shiftIn K reg b) bits).2 := rfl

theorem shiftIn_lt (K reg b : Nat) : shiftIn K reg b < 2 ^ K := by
  rw [shiftIn, Nat.and_two_pow_sub_one_eq_mod]
  exact Nat.mod_lt _ (Nat.two_pow_pos K)

theorem shiftIn_testBit_zero (K reg b : Nat) : (shiftIn K reg b).testBit 0 = (decide (0 < K) && b.testBit 0) := by
  simp [shiftIn]

theorem shiftIn_testBit_succ {b : Nat} (hb : b < 2) (K reg j : Nat) :
    (shiftIn K reg b).testBit (j + 1) = (decide (j + 1 < K) && reg.testBit j) := by
  have hbit : b.testBit (j + 1) = false := by rw [Nat.testBit_succ, Nat.div_eq_of_lt hb, Nat.zero_testBit]
  simp [shiftIn, hbit, Bool.and_comm]

theorem testBit_zero_of_lt_two {b : Nat} (hb : b < 2) : b.testBit 0 = (b == 1) := by
  rw [Nat.testBit_zero, Nat.mod_eq_of_lt hb, beq_eq_decide]

theorem shiftIn_xor {b b' : Nat} (hb : b < 2) (hb' : b' < 2) (K reg reg' : Nat) :
    shiftIn K (reg ^^^ reg') (b ^^^ b') = shiftIn K reg b ^^^ shiftIn K reg' b' := by
  have hxor : b ^^^ b' < 2 := Nat.xor_lt_two_pow (n := 1) hb hb'
  refine Nat.eq_of_testBit_eq fun j => ?_
  cases j with
  | zero => simp only [Nat.testBit_xor, shiftIn_testBit_zero, Bool.and_xor_distrib_left]
  | succ j =>
    simp only [Nat.testBit_xor, shiftIn_testBit_succ hxor, shiftIn_testBit_succ hb, shiftIn_testBit_succ hb',
      Bool.and_xor_distrib_left]

/-! ### Parity -/

theorem parityOf_xor (width v w : Nat) : parityOf width (v ^^^ w) = (parityOf width v ^^ parityOf width w) := by
  induction width with
  | zero => rfl
  | succ width ih => simp only [parityOf, Nat.testBit_xor, ih, Bool.xor_assoc, Bool.xor_left_comm]

theorem boolToNat_xor (p q : Bool) : (p ^^ q).toNat = p.toNat ^^^ q.toNat := by cases p <;> cases q <;> rfl

/-- The parity counts the set bits (R190). -/
theorem parityOf_toNat (width v : Nat) :
    (parityOf width v).toNat = ((List.range width).filter v.testBit).length % 2 := by
  induction width with
  | zero => rfl
  | succ width ih =>
    rw [parityOf, List.range_succ, List.filter_append, List.length_append, Nat.add_mod, ← ih]
    cases hbit : v.testBit width <;> cases parityOf width v <;> simp [hbit]

/-- An output bit is the inner product of the register with the taps (R190). -/
theorem parityOf_and_toNat (K reg taps : Nat) :
    (parityOf K (reg &&& taps)).toNat =
      ((List.range K).filter fun j => taps.testBit j && reg.testBit j).length % 2 := by
  rw [parityOf_toNat]
  congr 3
  funext j
  rw [Nat.testBit_and, Bool.and_comm]

/-! ### The encoder on a list of bits -/

/-- The encoder continues from its register (R197 e). -/
theorem convEncode_append (tapsA tapsB K init : Nat) (xs ys : List Nat) :
    convEncode tapsA tapsB K init (xs ++ ys) =
      ((convEncode tapsA tapsB K init xs).1 ++
          (convEncode tapsA tapsB K (convEncode tapsA tapsB K init xs).2 ys).1,
        (convEncode tapsA tapsB K (convEncode tapsA tapsB K init xs).2 ys).2) := by
  induction xs generalizing init with
  | nil => rfl
  | cons x xs ih =>
    refine Prod.ext ?_ ?_
    · simp only [List.cons_append, convEncode_cons_fst, convEncode_cons_snd, ih]
    · simp only [List.cons_append, convEncode_cons_snd, ih]

theorem xorLists_cons (x y : Nat) (xs ys : List Nat) :
    xorLists (x :: xs) (y :: ys) = (x ^^^ y) :: xorLists xs ys := rfl

/-- The encoder is linear in its register and its input together (R197 d). -/
theorem convEncode_xor (tapsA tapsB K : Nat) {xs ys : List Nat} (hlen : xs.length = ys.length) (hxs : ∀ b ∈ xs, b < 2)
    (hys : ∀ b ∈ ys, b < 2) (reg reg' : Nat) :
    (convEncode tapsA tapsB K (reg ^^^ reg') (xorLists xs ys)).1 =
      xorLists (convEncode tapsA tapsB K reg xs).1 (convEncode tapsA tapsB K reg' ys).1 := by
  induction xs generalizing ys reg reg' with
  | nil => rfl
  | cons x xs ih =>
    cases ys with
    | nil => cases hlen
    | cons y ys =>
      obtain ⟨hx, hxs⟩ := List.forall_mem_cons.1 hxs
      obtain ⟨hy, hys⟩ := List.forall_mem_cons.1 hys
      have hrest := ih (Nat.succ.inj hlen) hxs hys (shiftIn K reg x) (shiftIn K reg' y)
      simp only [xorLists_cons, convEncode_cons_fst, shiftIn_xor hx hy, hrest, Nat.and_xor_distrib_right, parityOf_xor,
        boolToNat_xor]

theorem convEncode_length (tapsA tapsB K init : Nat) (bits : List Nat) :
    (convEncode tapsA tapsB K init bits).1.length = 2 * bits.length := by
  induction bits generalizing init with
  | nil => rfl
  | cons b bits ih => simp only [convEncode_cons_fst, List.length_cons, ih, Nat.mul_add]

/-- The output bits of input bit `n` are the parities of the register after it (R190). -/
theorem convEncode_getElem? {tapsA tapsB K init n : Nat} {bits : List Nat} (hn : n < bits.length) :
    (convEncode tapsA tapsB K init bits).1[2 * n]? =
        some (parityOf K ((convEncode tapsA tapsB K init (bits.take (n + 1))).2 &&& tapsA)).toNat ∧
      (convEncode tapsA tapsB K init bits).1[2 * n + 1]? =
        some (parityOf K ((convEncode tapsA tapsB K init (bits.take (n + 1))).2 &&& tapsB)).toNat := by
  induction bits generalizing init n with
  | nil => cases hn
  | cons b bits ih =>
    cases n with
    | zero => exact ⟨rfl, rfl⟩
    | succ n => exact ih (Nat.lt_of_succ_lt_succ hn)

/-! ### The encoder's register -/

/-- The register after one bit more. -/
theorem convEncode_take_succ (tapsA tapsB K init : Nat) {bits : List Nat} {n : Nat} (hn : n < bits.length) :
    (convEncode tapsA tapsB K init (bits.take (n + 1))).2 =
      shiftIn K (convEncode tapsA tapsB K init (bits.take n)).2 bits[n] := by
  rw [List.take_add_one, List.getElem?_eq_getElem hn, convEncode_append]
  rfl

theorem convEncode_register_lt (tapsA tapsB : Nat) {K init : Nat} (hinit : init < 2 ^ K) (bits : List Nat) :
    (convEncode tapsA tapsB K init bits).2 < 2 ^ K := by
  induction bits generalizing init with
  | nil => exact hinit
  | cons b bits ih => exact ih (shiftIn_lt K init b)

/-- The newest bit is at bit 0, and each new bit moves the others up by one (R190). -/
theorem convEncode_register_testBit (tapsA tapsB init : Nat) {K n j : Nat} {bits : List Nat} (hbits : ∀ b ∈ bits, b < 2)
    (hn : n ≤ bits.length) (hj : j < K) :
    (convEncode tapsA tapsB K init (bits.take n)).2.testBit j =
      if j < n then bits.getD (n - 1 - j) 0 == 1 else init.testBit (j - n) := by
  induction n generalizing j with
  | zero => rfl
  | succ n ih =>
    have hbit : bits[n] < 2 := hbits _ (List.getElem_mem hn)
    rw [convEncode_take_succ _ _ _ _ hn]
    cases j with
    | zero =>
      rw [shiftIn_testBit_zero, decide_eq_true hj, Bool.true_and, testBit_zero_of_lt_two hbit, if_pos n.succ_pos,
        Nat.add_sub_cancel, Nat.sub_zero, List.getD_eq_getElem _ _ hn]
    | succ j =>
      rw [shiftIn_testBit_succ hbit, decide_eq_true hj, Bool.true_and, ih (Nat.le_of_succ_le hn) (Nat.lt_of_succ_lt hj)]
      simp only [Nat.add_lt_add_iff_right, Nat.add_sub_add_right, Nat.add_sub_cancel, Nat.sub_sub, Nat.add_comm]

/-- Settles O51: the register by induction on the bits taken, the outputs as parities of it. -/
theorem encoderRegisterBits : Obligations.EncoderRegisterBits := by
  intro tapsA tapsB K init bits hinit hbits
  refine ⟨fun n j hn hj => convEncode_register_testBit tapsA tapsB init hbits hn hj,
    fun n _ => convEncode_register_lt tapsA tapsB hinit (bits.take n), convEncode_length .., fun n hn => ?_⟩
  simp only [← parityOf_and_toNat]
  exact convEncode_getElem? hn

/-! ### Puncture and depuncture -/

/-- Puncturing replaces the dropped places by the marker (R194). -/
theorem punctureFrom_eq_mapIdx (t : SchedSlot) (i : Nat) (bits : List Nat) :
    punctureFrom t i bits = bits.mapIdx fun n b => if t.keeps (i + n) then b else erased := by
  induction bits generalizing i with
  | nil => rfl
  | cons b bits ih =>
    rw [punctureFrom, ih, List.mapIdx_cons]
    simp only [Nat.add_zero, Nat.add_assoc, Nat.add_comm 1]

theorem puncture_length (t : SchedSlot) (bits : List Nat) : (puncture t bits).length = bits.length := by
  rw [puncture, punctureFrom_eq_mapIdx, List.length_mapIdx]

theorem puncture_getElem? (t : SchedSlot) {bits : List Nat} {i : Nat} (hi : i < bits.length) :
    (puncture t bits)[i]? = some (if t.keeps i then bits[i] else erased) := by
  rw [puncture, punctureFrom_eq_mapIdx, List.getElem?_mapIdx, List.getElem?_eq_getElem hi, Option.map_some,
    Nat.zero_add]

/-- With the marks removed, depuncturing puts them back: no bit is a mark itself (R197 c). -/
theorem depunctureFrom_filter_punctureFrom (t : SchedSlot) (i : Nat) {bits : List Nat} (hbits : ∀ b ∈ bits, b < 2) :
    depunctureFrom t bits.length i ((punctureFrom t i bits).filter fun b => b != 2) = punctureFrom t i bits := by
  induction bits generalizing i with
  | nil => rfl
  | cons b bits ih =>
    obtain ⟨hb, hbits⟩ := List.forall_mem_cons.1 hbits
    rw [punctureFrom, List.length_cons, depunctureFrom]
    by_cases hkeep : t.keeps i = true
    · have hmark : (b != 2) = true := bne_iff_ne.2 hb.ne
      simp only [if_pos hkeep, List.filter_cons, hmark, if_true, List.headD_cons, List.tail_cons, ih _ hbits]
    · have hmark : (erased != 2) = false := rfl
      simp only [if_neg hkeep, List.filter_cons, hmark, Bool.false_eq_true, if_false, ih _ hbits]

/-- A place holds the mark exactly where it is dropped (R197 b). -/
theorem puncture_getElem?_eq_mark_iff (t : SchedSlot) {bits : List Nat} (hbits : ∀ b ∈ bits, b < 2) {i : Nat}
    (hi : i < bits.length) : (puncture t bits)[i]? = some 2 ↔ t.keeps i = false := by
  have hbit : bits[i] < 2 := hbits _ (List.getElem_mem hi)
  rw [puncture_getElem? t hi, Option.some_inj]
  cases t.keeps i with
  | true => simp [hbit.ne]
  | false => simp [erased]

/-- A kept place keeps its bit (R197 b). -/
theorem puncture_getElem?_of_keeps {t : SchedSlot} {bits : List Nat} {i : Nat} (hi : i < bits.length)
    (hkeep : t.keeps i = true) : (puncture t bits)[i]? = bits[i]? := by
  rw [puncture_getElem? t hi, if_pos hkeep, List.getElem?_eq_getElem hi]

/-- Settles O50, fact by fact (R197 a to e); a linear encoder starts from 0, which is `0 ^^^ 0`. -/
theorem punctureCodecProperties : Obligations.PunctureCodecProperties := by
  refine ⟨fun p bits hbits => ⟨puncture_length p bits, fun i hi => ?places, ?restored⟩,
    fun tapsA tapsB K xs ys hlen hxs hys => ?linear, fun tapsA tapsB K init xs ys => ?parts⟩
  case places => exact ⟨puncture_getElem?_eq_mark_iff p hbits hi, puncture_getElem?_of_keeps hi⟩
  case restored => exact depunctureFrom_filter_punctureFrom p 0 hbits
  case linear => exact convEncode_xor tapsA tapsB K hlen hxs hys 0 0
  case parts => exact congrArg Prod.fst (convEncode_append tapsA tapsB K init xs ys)

end Sys2Proof.Machine
end

section
/-! PROOFS. The Burst Framer (45_framer.md R206 to R213): the byte reversal, de-interleaving and the checksum. -/

namespace Sys2Proof.Machine

/-! ### The byte reversal (10_state.md R41; R206, R207) -/

theorem rev8_getLsbD (v : Symbol) {j : Nat} (hj : j < 8) : (rev8 v).getLsbD j = v.getLsbD (7 - j) := by
  rw [rev8, BitVec.getLsbD_ofFnLE, dif_pos hj]

theorem rev8_rev8 (v : Symbol) : rev8 (rev8 v) = v := by
  refine BitVec.eq_of_getLsbD_eq fun j hj => ?_
  rw [rev8_getLsbD _ hj, rev8_getLsbD _ (by omega), Nat.sub_sub_self (Nat.le_of_lt_succ hj)]

/-- The last cell of a bit string is the least significant bit of its word (00_scope.md R14). -/
theorem wordOf_testBit {bits : List Nat} (hbits : ∀ b ∈ bits, b < 2) (j : Nat) :
    ((wordOf bits).testBit j).toNat = bits.reverse.getD j 0 := by
  induction bits using List.reverseRecOn generalizing j with
  | nil => simp [wordOf]
  | append_singleton bits b ih =>
    have hb : b < 2 := hbits b (by simp)
    have hword : wordOf (bits ++ [b]) = 2 * wordOf bits + b := by simp [wordOf]
    rw [hword, List.reverse_concat]
    cases j with
    | zero =>
      rw [Nat.testBit_zero, List.getD_cons_zero, Nat.mul_add_mod, Nat.mod_eq_of_lt hb]
      interval_cases b <;> rfl
    | succ j =>
      have hhalf : (2 * wordOf bits + b) / 2 = wordOf bits := by omega
      rw [Nat.testBit_succ, hhalf, List.getD_cons_succ, ih fun c hc => hbits c (List.mem_append_left _ hc)]

theorem reverseGroup_length (bits : List Nat) : (reverseGroup bits).length = 8 := bitsOf_length _ 8

/-- The table reverses a group of eight cells (R206). -/
theorem reverseGroup_eq_reverse {bits : List Nat} (hlen : bits.length = 8) (hbits : ∀ b ∈ bits, b < 2) :
    reverseGroup bits = bits.reverse := by
  refine List.ext_getElem (by rw [reverseGroup_length, List.length_reverse, hlen]) fun i hi hi' => ?_
  rw [reverseGroup_length] at hi
  have hplace : 7 - (8 - 1 - i) = i := by omega
  calc (reverseGroup bits)[i]
      = ((rev8 (BitVec.ofNat 8 (wordOf bits))).getLsbD (8 - 1 - i)).toNat := by
        simp only [reverseGroup, bitsOf, List.getElem_map, List.getElem_range, BitVec.testBit_toNat]
    _ = ((wordOf bits).testBit i).toNat := by
        rw [rev8_getLsbD _ (by omega), hplace, BitVec.getLsbD_ofNat, decide_eq_true hi, Bool.true_and]
    _ = bits.reverse[i] := by rw [wordOf_testBit hbits, List.getD_eq_getElem _ _ hi']

/-! ### Normalisation (R206, R207) -/

theorem normalize_zero (bits : List Nat) : normalize bits 0 = bits := rfl

theorem normalize_one (bits : List Nat) : normalize bits 1 = reverseGroups (bits.length / 8) bits := rfl

theorem reverseGroups_length {groups : Nat} {bits : List Nat} (hlen : 8 * groups ≤ bits.length) :
    (reverseGroups groups bits).length = bits.length := by
  induction groups generalizing bits with
  | zero => rfl
  | succ groups ih =>
    have hrest : 8 * groups ≤ (bits.drop 8).length := by rw [List.length_drop]; omega
    rw [reverseGroups, List.length_append, reverseGroup_length, ih hrest, List.length_drop]
    omega

/-- Cell `j` of a reversed group comes from its cell `7 - j`. -/
theorem reverseGroups_getElem? {groups g j : Nat} {bits : List Nat} (hbits : ∀ b ∈ bits, b < 2)
    (hlen : 8 * groups ≤ bits.length) (hg : g < groups) (hj : j < 8) :
    (reverseGroups groups bits)[8 * g + j]? = bits[8 * g + 7 - j]? := by
  induction groups generalizing bits g with
  | zero => exact absurd hg (Nat.not_lt_zero g)
  | succ groups ih =>
    have htake : (bits.take 8).length = 8 := List.length_take_of_le (by omega)
    rw [reverseGroups]
    cases g with
    | zero =>
      rw [List.getElem?_append_left (by rw [reverseGroup_length]; omega),
        reverseGroup_eq_reverse htake fun b hb => hbits b (List.mem_of_mem_take hb),
        List.getElem?_reverse (by omega), htake, List.getElem?_take_of_lt (by omega)]
      congr 1
      omega
    | succ g =>
      have hrest : 8 * groups ≤ (bits.drop 8).length := by rw [List.length_drop]; omega
      rw [List.getElem?_append_right (by rw [reverseGroup_length]; omega), reverseGroup_length,
        show 8 * (g + 1) + j - 8 = 8 * g + j by omega,
        ih (fun b hb => hbits b (List.mem_of_mem_drop hb)) hrest (Nat.lt_of_succ_lt_succ hg), List.getElem?_drop]
      congr 1
      omega

theorem reverseGroups_reverseGroups {groups : Nat} {bits : List Nat} (hbits : ∀ b ∈ bits, b < 2)
    (hlen : 8 * groups ≤ bits.length) : reverseGroups groups (reverseGroups groups bits) = bits := by
  induction groups generalizing bits with
  | zero => rfl
  | succ groups ih =>
    have htake : (bits.take 8).length = 8 := List.length_take_of_le (by omega)
    have hgroup : ∀ b ∈ bits.take 8, b < 2 := fun b hb => hbits b (List.mem_of_mem_take hb)
    have hrest : 8 * groups ≤ (bits.drop 8).length := by rw [List.length_drop]; omega
    have hback : reverseGroup (reverseGroup (bits.take 8)) = bits.take 8 := by
      rw [reverseGroup_eq_reverse htake hgroup, reverseGroup_eq_reverse (by rw [List.length_reverse, htake])
        fun b hb => hgroup b (List.mem_reverse.1 hb), List.reverse_reverse]
    rw [reverseGroups, reverseGroups, List.take_left' (reverseGroup_length _), List.drop_left' (reverseGroup_length _),
      hback, ih (fun b hb => hbits b (List.mem_of_mem_drop hb)) hrest, List.take_append_drop]

/-- Settles O54: the table and the normalisation bit by bit and cell by cell (R207). -/
theorem reversalIsInvolutive : Obligations.ReversalIsInvolutive := by
  refine ⟨fun v => ⟨rev8_rev8 v, fun j hj => rev8_getLsbD v hj⟩, fun bits hbits =>
    ⟨normalize_zero bits, fun hwhole => ?_⟩⟩
  have hlen : 8 * (bits.length / 8) ≤ bits.length := Nat.mul_div_le ..
  have hkept : (reverseGroups (bits.length / 8) bits).length = bits.length := reverseGroups_length hlen
  simp only [normalize_one, hkept]
  refine ⟨trivial, fun g j hg hj => ?_, reverseGroups_reverseGroups hbits hlen⟩
  exact reverseGroups_getElem? hbits hlen (by omega) hj

/-! ### De-interleaving (R209, R210) -/

/-- Sub-stream `k` has an element `n` as long as its index `k + n S` is below the length (R209). -/
theorem lt_streamLen_iff {len S k n : Nat} (hS : 1 ≤ S) : n < streamLen len S k ↔ k + n * S < len := by
  rw [streamLen, Nat.lt_iff_add_one_le, Nat.le_div_iff_mul_le hS, Nat.succ_mul]
  omega

theorem stream_length (v : List Nat) (S k : Nat) : (stream v S k).length = streamLen v.length S k := by
  rw [stream, List.length_map, List.length_range]

theorem stream_getElem? {v : List Nat} {S k n : Nat} (hS : 1 ≤ S) (hn : n < streamLen v.length S k) :
    (stream v S k)[n]? = v[k + n * S]? := by
  have hplace : k + n * S < v.length := (lt_streamLen_iff hS).1 hn
  rw [stream, List.getElem?_map, List.getElem?_range hn, Option.map_some, List.getD_eq_getElem _ _ hplace,
    List.getElem?_eq_getElem hplace]

/-- Sub-stream `k` stands after the sub-streams before it (R209). -/
theorem deinterleave_getElem? {v : List Nat} {S k n : Nat} (hS : 1 ≤ S) (hk : k < S) (hn : n < streamLen v.length S k) :
    (deinterleave v S)[streamStart v.length S k + n]? = v[k + n * S]? := by
  obtain ⟨later, hrange⟩ : ∃ later, List.range S = List.range k ++ k :: later := by
    obtain ⟨d, rfl⟩ := Nat.exists_eq_add_of_lt hk
    exact ⟨_, by rw [Nat.add_assoc, List.range_add, List.range_succ_eq_map, List.map_cons, Nat.add_zero]⟩
  have hbefore : ((List.range k).flatMap fun j => stream v S j).length = streamStart v.length S k := by
    simp only [List.length_flatMap, stream_length, streamStart]
  rw [deinterleave, hrange, List.flatMap_append, List.flatMap_cons, ← hbefore,
    List.getElem?_append_right (Nat.le_add_right ..), Nat.add_sub_cancel_left,
    List.getElem?_append_left (by rwa [stream_length]), stream_getElem? hS hn]

/-- The input index of each output element, in order (R209). -/
def deinterleaveIndices (len S : Nat) : List Nat :=
  (List.range S).flatMap fun k => (List.range (streamLen len S k)).map fun n => k + n * S

theorem deinterleave_eq_map (v : List Nat) (S : Nat) :
    deinterleave v S = (deinterleaveIndices v.length S).map fun i => v.getD i 0 := by
  simp only [deinterleave, deinterleaveIndices, stream, List.map_flatMap, List.map_map, Function.comp_def]

theorem mem_deinterleaveIndices {len S i : Nat} (hS : 1 ≤ S) : i ∈ deinterleaveIndices len S ↔ i < len := by
  simp only [deinterleaveIndices, List.mem_flatMap, List.mem_map, List.mem_range, lt_streamLen_iff hS]
  constructor
  · rintro ⟨k, -, n, hn, rfl⟩
    exact hn
  · intro hi
    have hsplit : i % S + i / S * S = i := Nat.mod_add_div' i S
    exact ⟨i % S, Nat.mod_lt i hS, i / S, by rwa [hsplit], hsplit⟩

/-- No element is taken twice: its index gives its sub-stream and its place there. -/
theorem nodup_deinterleaveIndices {len S : Nat} (hS : 1 ≤ S) : (deinterleaveIndices len S).Nodup := by
  refine List.nodup_flatMap.2 ⟨fun k _ => ?_, List.pairwise_lt_range.imp_of_mem fun {k k'} hk hk' hlt => ?_⟩
  · refine List.nodup_range.map fun n n' heq => ?_
    exact Nat.eq_of_mul_eq_mul_right hS (Nat.add_left_cancel heq)
  · intro i hi hi'
    obtain ⟨n, -, rfl⟩ := List.mem_map.1 hi
    obtain ⟨n', -, heq⟩ := List.mem_map.1 hi'
    have hmod : k' % S = k % S := by simpa using congrArg (· % S) heq
    rw [Nat.mod_eq_of_lt (List.mem_range.1 hk), Nat.mod_eq_of_lt (List.mem_range.1 hk')] at hmod
    exact hlt.ne' hmod

theorem deinterleave_perm (v : List Nat) {S : Nat} (hS : 1 ≤ S) : (deinterleave v S).Perm v := by
  have hindices : (deinterleaveIndices v.length S).Perm (List.range v.length) :=
    (List.perm_ext_iff_of_nodup (nodup_deinterleaveIndices hS) List.nodup_range).2 fun i => by
      rw [mem_deinterleaveIndices hS, List.mem_range]
  have hall : (List.range v.length).map (fun i => v.getD i 0) = v :=
    List.ext_getElem (by simp) fun i hi hi' => by simp [hi']
  rw [deinterleave_eq_map]
  exact (hindices.map _).trans (List.Perm.of_eq hall)

/-- Settles O55: element `i` of the input is element `i / S` of sub-stream `i % S` (R210). -/
theorem deinterleavePermutes : Obligations.DeinterleavePermutes := by
  intro v S hS
  have hperm := deinterleave_perm v hS
  refine ⟨hperm, hperm.length_eq, fun k n hk hn => ⟨(lt_streamLen_iff hS).1 hn, deinterleave_getElem? hS hk hn⟩,
    fun i hi => ?_⟩
  have hsplit : i % S + i / S * S = i := Nat.mod_add_div' i S
  have hplace : i / S < streamLen v.length S (i % S) := (lt_streamLen_iff hS).2 (by rwa [hsplit])
  refine ⟨hplace, ?_⟩
  rw [deinterleave_getElem? hS (Nat.mod_lt i hS) hplace, hsplit]

/-! ### The folded sum (R211) -/

/-- One pass of `foldCarry`: the carry above 16 bits added back in. -/
theorem foldCarry_succ (fuel x : Nat) :
    foldCarry (fuel + 1) x = if x ≤ 0xFFFF then x else foldCarry fuel (x % 2 ^ 16 + x / 2 ^ 16) := by
  rw [foldCarry, show x &&& 0xFFFF = x % 2 ^ 16 from Nat.and_two_pow_sub_one_eq_mod x 16, Nat.shiftRight_eq_div_pow]

/-- As `2 ^ 16` is 1 modulo 65535, folding keeps the residue. -/
theorem foldCarry_mod (fuel x : Nat) : foldCarry fuel x % 65535 = x % 65535 := by
  induction fuel generalizing x with
  | zero => rfl
  | succ fuel ih =>
    rw [foldCarry_succ]
    split
    next => rfl
    next => rw [ih]; omega

theorem foldCarry_eq_zero_iff (fuel x : Nat) : foldCarry fuel x = 0 ↔ x = 0 := by
  induction fuel generalizing x with
  | zero => rfl
  | succ fuel ih =>
    rw [foldCarry_succ]
    split
    next => rfl
    next => rw [ih]; omega

/-- One pass at least halves what stands above 65535, so one pass for each bit is enough. -/
theorem foldCarry_lt {fuel x : Nat} (h : x < 65535 + 2 ^ fuel) : foldCarry fuel x < 2 ^ 16 := by
  induction fuel generalizing x with
  | zero => exact h
  | succ fuel ih =>
    rw [foldCarry_succ]
    split
    next => omega
    next =>
      have hpos : 0 < 2 ^ fuel := Nat.two_pow_pos fuel
      rw [Nat.pow_succ] at h
      exact ih (by omega)

/-- The sum of the words with every carry folded back in (R211). -/
def foldedSum (words : List Nat) : Nat := foldCarry (bitlen words.sum) words.sum

theorem foldedSum_lt (words : List Nat) : foldedSum words < 2 ^ 16 :=
  foldCarry_lt ((lt_two_pow_bitlen words.sum).trans_le (Nat.le_add_left ..))

theorem foldedSum_mod (words : List Nat) : foldedSum words % 65535 = words.sum % 65535 := foldCarry_mod ..

theorem foldedSum_eq_zero_iff (words : List Nat) : foldedSum words = 0 ↔ words.sum = 0 := foldCarry_eq_zero_iff ..

/-! ### The checksum (R211, R213) -/

/-- Flipping all bits of a word takes it from the word of ones. -/
theorem xor_two_pow_sub_one {n y : Nat} (hy : y < 2 ^ n) : y ^^^ (2 ^ n - 1) = 2 ^ n - 1 - y := by
  refine Nat.eq_of_testBit_eq fun i => ?_
  rw [Nat.sub_sub, Nat.add_comm, Nat.testBit_two_pow_sub_succ hy, Nat.testBit_xor, Nat.testBit_two_pow_sub_one]
  by_cases hi : i < n
  · simp [hi]
  · simp [hi, Nat.testBit_lt_two_pow (hy.trans_le (Nat.pow_le_pow_right Nat.two_pos (Nat.le_of_not_lt hi)))]

/-- The checksum is what is missing from the folded sum to 65535. -/
theorem csum16_eq_sub (words : List Nat) : csum16 words = 0xFFFF - foldedSum words :=
  xor_two_pow_sub_one (n := 16) (foldedSum_lt words)

theorem csum16_lt (words : List Nat) : csum16 words < 2 ^ 16 := by
  rw [csum16_eq_sub]
  omega

theorem csum16_eq_ones_iff (words : List Nat) : csum16 words = 0xFFFF ↔ ∀ x ∈ words, x = 0 := by
  have hlt := foldedSum_lt words
  rw [← List.sum_eq_zero_iff, ← foldedSum_eq_zero_iff, csum16_eq_sub]
  omega

/-- Taken from 65535, the checksum gives back the residue of the sum. -/
theorem ones_sub_csum16_mod (words : List Nat) : (0xFFFF - csum16 words) % 65535 = words.sum % 65535 := by
  have hlt := foldedSum_lt words
  rw [← foldedSum_mod, csum16_eq_sub]
  omega

/-- Flipping bit `k` adds or takes `2 ^ k`. -/
theorem xor_two_pow_add_or (x k : Nat) : x ^^^ 2 ^ k = x + 2 ^ k ∨ (x ^^^ 2 ^ k) + 2 ^ k = x := by
  induction k generalizing x with
  | zero =>
    rw [Nat.pow_zero]
    obtain heven | hodd := Nat.even_or_odd x
    · exact .inl (Nat.xor_one_of_even heven)
    · exact .inr (by rw [Nat.xor_one_of_odd hodd, Nat.sub_add_cancel hodd.pos])
  | succ k ih =>
    have hhalf : (x ^^^ 2 ^ (k + 1)) / 2 = x / 2 ^^^ 2 ^ k := by
      rw [Nat.xor_div_two, Nat.pow_succ, Nat.mul_div_cancel _ Nat.two_pos]
    have hlow : (x ^^^ 2 ^ (k + 1)) % 2 = (x + 2 ^ (k + 1)) % 2 := Nat.xor_mod_two_eq
    have hrest := ih (x / 2)
    omega

/-- Replacing a word changes the sum by the difference of the two. -/
theorem sum_set_add_getElem (words : List Nat) {i : Nat} (hi : i < words.length) (y : Nat) :
    (words.set i y).sum + words[i] = words.sum + y := by
  induction words generalizing i with
  | nil => exact absurd hi (Nat.not_lt_zero i)
  | cons x words ih =>
    cases i with
    | zero => simp only [List.set_cons_zero, List.sum_cons, List.getElem_cons_zero]; omega
    | succ i =>
      have hrest := ih (Nat.lt_of_succ_lt_succ hi)
      simp only [List.set_cons_succ, List.sum_cons, List.getElem_cons_succ]
      omega

/-- A flipped bit changes the sum by less than 65535, so its residue changes, and with it the checksum (R213). -/
theorem csum16_flip_ne (words : List Nat) {i k : Nat} (hi : i < words.length) (hk : k < 16) :
    csum16 (words.set i (words.getD i 0 ^^^ 2 ^ k)) ≠ csum16 words := by
  intro heq
  have hresidue := ones_sub_csum16_mod (words.set i (words.getD i 0 ^^^ 2 ^ k))
  rw [heq, ones_sub_csum16_mod, List.getD_eq_getElem _ _ hi] at hresidue
  have hsum := sum_set_add_getElem words hi (words[i] ^^^ 2 ^ k)
  have hflip := xor_two_pow_add_or words[i] k
  have hpos : 0 < 2 ^ k := Nat.two_pow_pos k
  have hsmall : 2 ^ k < 2 ^ 16 - 1 := (Nat.pow_le_pow_right Nat.two_pos (Nat.le_of_lt_succ hk)).trans_lt (by decide)
  omega

/-- With its checksum appended the sum is a positive multiple of 65535, which folds to 65535 (R213). -/
theorem csum16_append_csum16 (words : List Nat) : csum16 (words ++ [csum16 words]) = 0 := by
  have hsum : (words ++ [csum16 words]).sum = words.sum + csum16 words := by simp
  have hlt := csum16_lt words
  have hresidue := ones_sub_csum16_mod words
  have hzero := csum16_eq_ones_iff words
  rw [← List.sum_eq_zero_iff] at hzero
  have hfold := foldedSum_mod (words ++ [csum16 words])
  have hfoldZero := foldedSum_eq_zero_iff (words ++ [csum16 words])
  rw [hsum] at hfold hfoldZero
  rw [csum16_eq_sub]
  omega

/-- Settles O56, property by property (R211, R213); that the words are below `2 ^ 16` is not needed. -/
theorem checksumProperties : Obligations.ChecksumProperties := by
  intro words _
  exact ⟨csum16_lt words, csum16_eq_ones_iff words, ones_sub_csum16_mod words,
    fun _ _ hi hk => csum16_flip_ne words hi hk, csum16_append_csum16 words⟩

end Sys2Proof.Machine
end

section
/-! PROOFS. The life of a slot (70_reset_and_hazards.md R282): a command leaves every valid slot as it is, and makes one
valid only by building it; reset empties all slots. -/

namespace Sys2Proof.Machine

open Sys2Proof.Config

/-! ### The slots of one kind -/

/-- From `old` to `new` every valid slot stays as it is, and a slot becomes valid only where `may` allows it. -/
structure SlotsEvolve {α : Type} {n : Nat} (valid : α → Bool) (may : Nat → Prop) (old new : Vector α n) : Prop where
  kept : ∀ i (hi : i < n), valid old[i] = true → new[i] = old[i]
  built : ∀ i (hi : i < n), valid old[i] = false → valid new[i] = true → may i

/-- What `slotValid` reads of the slots of its kind: the valid bit of slot `i`, if there is such a slot. -/
def validBit {α : Type} {n : Nat} (valid : α → Bool) (slots : Vector α n) (i : Nat) : Bool :=
  if h : i < n then valid slots[i] else false

theorem validBit_replicate {α : Type} {n : Nat} {valid : α → Bool} {x : α} (hx : valid x = false) (i : Nat) :
    validBit valid (Vector.replicate n x) i = false := by
  simp [validBit, hx]

namespace SlotsEvolve

variable {α : Type} {n : Nat} {valid : α → Bool} {may : Nat → Prop} {old new : Vector α n} {i : Nat}

/-- Slots that are not touched. -/
theorem refl (slots : Vector α n) : SlotsEvolve valid may slots slots where
  kept _ _ _ := rfl
  built _ _ hold hnew := by rw [hold] at hnew; cases hnew

theorem mono {may' : Nat → Prop} (h : SlotsEvolve valid may old new) (hm : ∀ i, may i → may' i) :
    SlotsEvolve valid may' old new where
  kept := h.kept
  built i hi hold hnew := hm i (h.built i hi hold hnew)

/-- One slot written that was not valid (R86 step 4). -/
theorem set {x : α} (hi : i < n) (hold : valid old[i] = false) (hx : valid x = true → may i) :
    SlotsEvolve valid may old (old.set i x hi) where
  kept j hj hv := by
    have hne : i ≠ j := by
      rintro rfl
      rw [hold] at hv
      cases hv
    exact Vector.getElem_set_ne hi hj hne
  built j hj hv hnew := by
    by_cases heq : i = j
    · subst heq
      rw [Vector.getElem_set_self] at hnew
      exact hx hnew
    · rw [Vector.getElem_set_ne hi hj heq, hv] at hnew
      cases hnew

theorem validBit_kept (h : SlotsEvolve valid may old new) (hv : validBit valid old i = true) :
    validBit valid new i = true := by
  unfold validBit at hv ⊢
  split at hv
  next hi => rw [dif_pos hi, h.kept i hi hv, hv]
  next => cases hv

theorem validBit_built (h : SlotsEvolve valid may old new) (hold : validBit valid old i = false)
    (hnew : validBit valid new i = true) : may i := by
  unfold validBit at hold hnew
  split at hnew
  next hi => exact h.built i hi (by rwa [dif_pos hi] at hold) hnew
  next => cases hnew

end SlotsEvolve

/-! ### All slots -/

/-- The form to which the `simp` lemmas about each update of the state apply. -/
theorem keepsTables_iff {s t : State} :
    KeepsTables s t ↔ t.fields = s.fields ∧ t.bch = s.bch ∧ t.rs = s.rs ∧ t.sched = s.sched :=
  ⟨fun ⟨hf, hb, hr, hs⟩ => ⟨hf, hb, hr, hs⟩, fun ⟨hf, hb, hr, hs⟩ => ⟨hf, hb, hr, hs⟩⟩

/-- From `s` to `t` the slots of every kind evolve, those becoming valid that `may` allows. -/
structure Evolves (may : SlotKind → Nat → Prop) (s t : State) : Prop where
  fields : SlotsEvolve (·.valid) (may .field) s.fields t.fields
  bch : SlotsEvolve (·.valid) (may .bch) s.bch t.bch
  rs : SlotsEvolve (·.valid) (may .rs) s.rs t.rs
  sched : SlotsEvolve (·.valid) (may .sched) s.sched t.sched

namespace Evolves

variable {may : SlotKind → Nat → Prop} {s t u : State} {kind : SlotKind} {n : Nat}

theorem of_keepsTables (h : KeepsTables s t) : Evolves may s t where
  fields := h.fields ▸ .refl _
  bch := h.bch ▸ .refl _
  rs := h.rs ▸ .refl _
  sched := h.sched ▸ .refl _

/-- What leaves every slot alone may come before. -/
theorem after (h : Evolves may u t) (hu : KeepsTables s u) : Evolves may s t where
  fields := hu.fields ▸ h.fields
  bch := hu.bch ▸ h.bch
  rs := hu.rs ▸ h.rs
  sched := hu.sched ▸ h.sched

theorem mono {may' : SlotKind → Nat → Prop} (h : Evolves may s t) (hm : ∀ kind n, may kind n → may' kind n) :
    Evolves may' s t where
  fields := h.fields.mono (hm _)
  bch := h.bch.mono (hm _)
  rs := h.rs.mono (hm _)
  sched := h.sched.mono (hm _)

theorem slotValid_kept (h : Evolves may s t) (hs : s.slotValid kind n = true) : t.slotValid kind n = true := by
  cases kind with
  | field => exact h.fields.validBit_kept hs
  | bch => exact h.bch.validBit_kept hs
  | rs => exact h.rs.validBit_kept hs
  | sched => exact h.sched.validBit_kept hs

theorem slotValid_built (h : Evolves may s t) (hs : s.slotValid kind n = false) (ht : t.slotValid kind n = true) :
    may kind n := by
  cases kind with
  | field => exact h.fields.validBit_built hs ht
  | bch => exact h.bch.validBit_built hs ht
  | rs => exact h.rs.validBit_built hs ht
  | sched => exact h.sched.validBit_built hs ht

end Evolves

/-! ### What a command answers -/

/-- Command `i`, ending with condition `k`, makes slot `n` of a kind valid. -/
def Builds (i : Instr) (k : Cond) (kind : SlotKind) (n : Nat) : Prop :=
  i.isBuild = true ∧ i.slotKind = some kind ∧ i.selector = some n ∧ k = .ok

/-- Command `i`, answering `r` in state `s`, ends with a condition after the slots have evolved. -/
def EndsEvolved (i : Instr) (s : State) (r : Result) : Prop :=
  ∃ k u, Evolves (Builds i k) s u ∧ r = raise k u

namespace EndsEvolved

variable {i : Instr} {s u : State} {b : Result}

theorem raised {k : Cond} (h : Evolves (Builds i k) s u) : EndsEvolved i s (raise k u) := ⟨k, u, h, rfl⟩

/-- A command that has written no slot when it ends, whatever the condition. -/
theorem ended {k : Cond} (h : KeepsTables s u := by simp [keepsTables_iff]) : EndsEvolved i s (raise k u) :=
  raised (.of_keepsTables h)

/-- A command that has written no slot when it completes. -/
theorem completed (h : KeepsTables s u := by simp [keepsTables_iff]) : EndsEvolved i s (complete u) := ended h

/-- A check that fails leaves every slot as it was (R244). -/
theorem check {c : Prop} [Decidable c] {k : Cond} (hb : EndsEvolved i s b) :
    EndsEvolved i s (if c then raise k s else b) := by
  split
  · exact ended
  · exact hb

/-- Steps 3 and 4 of a command that uses a slot (R86). -/
theorem slot {α : Type} {n : Nat} {slots : Vector α n} {valid : α → Bool} {j : Nat} {go : α → Result}
    (h : ∀ x, EndsEvolved i s (go x)) : EndsEvolved i s (withBuilt slots valid j s go) := by
  unfold withBuilt
  split
  · split
    · exact h _
    · exact ended
  · exact ended

/-- Steps 3 and 4 of a build command (R86): it goes on only if its slot is not valid. -/
theorem freeSlot {α : Type} {n : Nat} {slots : Vector α n} {valid : α → Bool} {j : Nat} {go : j < n → Result}
    (h : ∀ hj, valid slots[j] = false → EndsEvolved i s (go hj)) :
    EndsEvolved i s (withUnbuilt slots valid j s go) := by
  unfold withUnbuilt
  split
  next hj =>
    split
    next => exact ended
    next hv => exact h hj (Bool.eq_false_of_not_eq_true hv)
  next => exact ended

/-- Steps 3 and 4 of a Reed-Solomon command (R86, R150). -/
theorem code {r : Nat} {go : RsSlot → FieldSlot → Result} (h : ∀ k t, EndsEvolved i s (go k t)) :
    EndsEvolved i s (withCode r s go) :=
  slot fun _ => h _ _

/-- Both ends of `BCH.REPAIR` and `BCH.LOOKUP` (R136, R138). -/
theorem repair (bits : List Nat) (syndrome : Nat) (found : Option (Nat × Nat)) :
    EndsEvolved i s (writeRepair bits syndrome found s) := by
  cases found with
  | none => exact ended
  | some p => exact completed

end EndsEvolved

/-! The commands, in the order of the opcode table (R83). Field Engine (R102, R108 to R112, R115, R116). -/

/-- A build that fails in step 8 writes its slot too, but leaves it not valid (R102, R244 c). -/
theorem execGfBuild_evolves (f : Nat) (s : State) : EndsEvolved (.gfBuild f) s (execGfBuild f s) :=
  .freeSlot fun hf hv => .check <| by
    cases buildTables s.arg0 s.arg1 s.arg2 with
    | none =>
      refine .raised ⟨.set hf hv fun hx => ?_, .refl _, .refl _, .refl _⟩
      rw [hv] at hx
      cases hx
    | some tables => exact .raised ⟨.set hf hv fun _ => ⟨rfl, rfl, rfl, rfl⟩, .refl _, .refl _, .refl _⟩

theorem execGfAdd_evolves (f : Nat) (s : State) : EndsEvolved (.gfAdd f) s (execGfAdd f s) :=
  .slot fun _ => .check .completed

theorem execGfMul_evolves (f : Nat) (s : State) : EndsEvolved (.gfMul f) s (execGfMul f s) :=
  .slot fun _ => .check .completed

theorem execGfDiv_evolves (f : Nat) (s : State) : EndsEvolved (.gfDiv f) s (execGfDiv f s) :=
  .slot fun t => .check <| by
    cases gfDiv t s.arg0 s.arg1 with
    | none => exact .ended
    | some z => exact .completed

theorem execGfExp_evolves (f : Nat) (s : State) : EndsEvolved (.gfExp f) s (execGfExp f s) :=
  .slot fun _ => .check .completed

theorem execGfLog_evolves (f : Nat) (s : State) : EndsEvolved (.gfLog f) s (execGfLog f s) :=
  .slot fun _ => .check .completed

theorem execGfPadd_evolves (f : Nat) (s : State) : EndsEvolved (.gfPadd f) s (execGfPadd f s) :=
  .slot fun _ => .check <| .check <| .check <| .check .completed

theorem execGfPmul_evolves (f : Nat) (s : State) : EndsEvolved (.gfPmul f) s (execGfPmul f s) :=
  .slot fun _ => .check <| .check <| .check <| .check <| .check .completed

/-! BCH Decoder (R133 to R139). -/

theorem execBchBuild_evolves (c : Nat) (s : State) : EndsEvolved (.bchBuild c) s (execBchBuild c s) :=
  .freeSlot fun hc hv => .check <| .raised ⟨.refl _, .set hc hv fun _ => ⟨rfl, rfl, rfl, rfl⟩, .refl _, .refl _⟩

theorem execBchDiv_evolves (s : State) : EndsEvolved .bchDiv s (execBchDiv s) :=
  .check <| .check <| .check .completed

theorem execBchRepair_evolves (s : State) : EndsEvolved .bchRepair s (execBchRepair s) :=
  .check <| .check <| .check <| .repair ..

theorem execBchLookup_evolves (c : Nat) (s : State) : EndsEvolved (.bchLookup c) s (execBchLookup c s) :=
  .slot fun _ => .check <| .check <| .repair ..

theorem execBchSynrd_evolves (c : Nat) (s : State) : EndsEvolved (.bchSynrd c) s (execBchSynrd c s) :=
  .slot fun t => .check <| by
    cases synAt t.syn s.arg0 with
    | none => exact .completed
    | some entry => exact .completed

/-! Reed-Solomon codec (R152 to R170). -/

theorem execRsCfg_evolves (r : Nat) (s : State) : EndsEvolved (.rsCfg r) s (execRsCfg r s) :=
  .freeSlot fun hr hv => by
    split
    · exact .check <| .check <| .raised ⟨.refl _, .refl _, .set hr hv fun _ => ⟨rfl, rfl, rfl, rfl⟩, .refl _⟩
    · exact .ended

theorem execRsGpoly_evolves (r : Nat) (s : State) : EndsEvolved (.rsGpoly r) s (execRsGpoly r s) :=
  .code fun _ _ => .completed

theorem execRsEnc_evolves (r : Nat) (s : State) : EndsEvolved (.rsEnc r) s (execRsEnc r s) :=
  .code fun _ _ => .check <| .check .completed

theorem execRsSynd_evolves (r : Nat) (s : State) : EndsEvolved (.rsSynd r) s (execRsSynd r s) :=
  .code fun _ _ => .check <| .check .completed

theorem execRsEloc_evolves (r : Nat) (s : State) : EndsEvolved (.rsEloc r) s (execRsEloc r s) :=
  .code fun _ _ => .check <| .check <| .check <| .check <| .check .completed

theorem execRsEpos_evolves (r : Nat) (s : State) : EndsEvolved (.rsEpos r) s (execRsEpos r s) :=
  .code fun k t => .check <| .check <| .check <| by
    cases rsEpos t k (s.vec .a) s.arg0 with
    | none => exact .ended
    | some pos => exact .completed

theorem execRsCorr_evolves (r : Nat) (s : State) : EndsEvolved (.rsCorr r) s (execRsCorr r s) :=
  .code fun k t => .check <| .check <| .check <| .check <| .check <| .check <| by
    cases rsCorr t k (s.vec .a) (s.vec .b) (s.vec .c) with
    | none => exact .ended
    | some out => exact .completed

theorem execRsDec_evolves (r : Nat) (s : State) : EndsEvolved (.rsDec r) s (execRsDec r s) :=
  .code fun k t => .check <| .check <| .check <| .check <| by
    cases rsDecode t k (s.vec .a) (s.vec .b) with
    | error c => exact .ended
    | ok d => exact .completed

theorem execRsCheck_evolves (r : Nat) (s : State) : EndsEvolved (.rsCheck r) s (execRsCheck r s) :=
  .code fun _ _ => .check <| .check <| .check .completed

theorem execRsFix_evolves (r : Nat) (s : State) : EndsEvolved (.rsFix r) s (execRsFix r s) :=
  .code fun k t => .check <| .check <| .check <| by
    cases rsFix t k s.arg1 (s.vec .a) with
    | error c => exact .ended
    | ok d => exact .completed

/-! Puncture Codec (R191 to R196). -/

theorem execCvEnc_evolves (s : State) : EndsEvolved .cvEnc s (execCvEnc s) :=
  .check <| .check <| .check .completed

theorem execPnCfg_evolves (p : Nat) (s : State) : EndsEvolved (.pnCfg p) s (execPnCfg p s) :=
  .freeSlot fun hp hv => .check <| .raised ⟨.refl _, .refl _, .refl _, .set hp hv fun _ => ⟨rfl, rfl, rfl, rfl⟩⟩

theorem execPnPunc_evolves (p : Nat) (s : State) : EndsEvolved (.pnPunc p) s (execPnPunc p s) :=
  .slot fun _ => .check <| .check .completed

theorem execPnDepunc_evolves (p : Nat) (s : State) : EndsEvolved (.pnDepunc p) s (execPnDepunc p s) :=
  .slot fun _ => .check <| .check <| .check .completed

/-! Burst Framer and housekeeping (R206 to R212, R226, R227). -/

theorem execFrNorm_evolves (s : State) : EndsEvolved .frNorm s (execFrNorm s) :=
  .check <| .check <| .check <| .check .completed

theorem execFrDeint_evolves (s : State) : EndsEvolved .frDeint s (execFrDeint s) :=
  .check <| .check <| .check .completed

theorem execFrCsum16_evolves (s : State) : EndsEvolved .frCsum16 s (execFrCsum16 s) := .check .completed

theorem execFrRev8_evolves (s : State) : EndsEvolved .frRev8 s (execFrRev8 s) := .check .completed

theorem execSysNop_evolves (s : State) : EndsEvolved .sysNop s (execSysNop s) := .completed

theorem execBufCopy_evolves (s : State) : EndsEvolved .bufCopy s (execBufCopy s) := by
  unfold execBufCopy
  cases copyOperands s.arg0 s.arg1 s.arg2 s.arg3 with
  | none => exact .ended
  | some bufs => exact .check <| .check <| .completed

/-- Every command leaves the valid slots as they are, and a slot becomes valid only by a build command that selects it
and ends with `OK` (R282). -/
theorem exec_evolves (i : Instr) (s : State) : EndsEvolved i s (exec i s) := by
  cases i with
  | sysNop => exact execSysNop_evolves s
  | gfBuild f => exact execGfBuild_evolves f s
  | gfAdd f => exact execGfAdd_evolves f s
  | gfMul f => exact execGfMul_evolves f s
  | gfDiv f => exact execGfDiv_evolves f s
  | gfExp f => exact execGfExp_evolves f s
  | gfLog f => exact execGfLog_evolves f s
  | gfPadd f => exact execGfPadd_evolves f s
  | gfPmul f => exact execGfPmul_evolves f s
  | bchBuild c => exact execBchBuild_evolves c s
  | bchDiv => exact execBchDiv_evolves s
  | bchRepair => exact execBchRepair_evolves s
  | bchLookup c => exact execBchLookup_evolves c s
  | bchSynrd c => exact execBchSynrd_evolves c s
  | rsCfg r => exact execRsCfg_evolves r s
  | rsGpoly r => exact execRsGpoly_evolves r s
  | rsEnc r => exact execRsEnc_evolves r s
  | rsSynd r => exact execRsSynd_evolves r s
  | rsEloc r => exact execRsEloc_evolves r s
  | rsEpos r => exact execRsEpos_evolves r s
  | rsCorr r => exact execRsCorr_evolves r s
  | rsDec r => exact execRsDec_evolves r s
  | rsCheck r => exact execRsCheck_evolves r s
  | rsFix r => exact execRsFix_evolves r s
  | cvEnc => exact execCvEnc_evolves s
  | pnCfg p => exact execPnCfg_evolves p s
  | pnPunc p => exact execPnPunc_evolves p s
  | pnDepunc p => exact execPnDepunc_evolves p s
  | frNorm => exact execFrNorm_evolves s
  | frDeint => exact execFrDeint_evolves s
  | frCsum16 => exact execFrCsum16_evolves s
  | frRev8 => exact execFrRev8_evolves s
  | bufCopy => exact execBufCopy_evolves s

theorem Evolves.of_exec {i : Instr} {s t : State} (h : exec i s = .next t) : Evolves (Builds i t.status.cond) s t := by
  obtain ⟨k, u, hu, hr⟩ := exec_evolves i s
  obtain rfl : t = endWith k u := raise_eq_next.1 (hr ▸ h)
  exact ⟨hu.fields, hu.bch, hu.rs, hu.sched⟩

/-! ### What an access answers -/

/-- The access writes a word to `CMD` whose command, ending with condition `k`, makes slot `n` of a kind valid. -/
def HostAccess.IssuesBuild (x : HostAccess) (k : Cond) (kind : SlotKind) (n : Nat) : Prop :=
  ∃ w i, x = .write 0x1F w ∧ decode w = .ok i ∧ Builds i k kind n

/-- The only mapped index of `CMD` (R23). -/
theorem targetOf_eq_cmd {idx : Nat} (h : targetOf idx = some .cmd) : idx = 0x1F := by
  unfold targetOf at h
  split at h
  · unfold registerAt at h
    split at h <;> cases h
    rfl
  · unfold cellTarget at h
    split at h <;> cases h

theorem keepsTables_accept (w : Word) (s : State) : KeepsTables s (accept w s) := ⟨rfl, rfl, rfl, rfl⟩

/-- A write to `CMD` is ignored, runs a command, or ends as an illegal word does (R27, R85). -/
theorem Evolves.of_writeCmd {w : Word} {s t : State} (h : writeCmd w s = .next t) :
    Evolves (HostAccess.IssuesBuild (.write 0x1F w) t.status.cond) s t := by
  unfold writeCmd runCommand at h
  split at h
  · cases h
    exact .of_keepsTables (keepsTables_refl s)
  · split at h
    next i hd => exact ((of_exec h).after (keepsTables_accept w s)).mono fun _ _ hb => ⟨w, i, rfl, hd, hb⟩
    next =>
      obtain rfl := raise_eq_next.1 h
      exact .of_keepsTables (keepsTables_endWith (keepsTables_accept w s))

/-- A write that does not reset: of the mapped indices only `CMD` can touch a slot (R23). -/
theorem Evolves.of_writeTarget {idx : Nat} {v : Word} {s t : State} {target : Target}
    (htarget : targetOf idx = some target) (h : writeTarget v s target = .next t)
    (hx : (HostAccess.write idx v).resets = false) :
    Evolves (HostAccess.IssuesBuild (.write idx v) t.status.cond) s t := by
  cases target with
  | cmd =>
    obtain rfl := targetOf_eq_cmd htarget
    exact .of_writeCmd h
  | ctrl =>
    obtain rfl := targetOf_eq_ctrl htarget
    have hv : ¬ v.getLsbD 0 = true := by simpa [HostAccess.resets] using hx
    cases h
    rw [writeCtrl, if_neg hv]
    exact .of_keepsTables (keepsTables_refl s)
  | len bid | cell bid i =>
    cases h
    refine .of_keepsTables ?_
    split <;> simp [keepsTables_iff]
  | id | status | evlog | cmdseq | lastcmd | arg i | res i =>
    cases h
    exact .of_keepsTables ⟨rfl, rfl, rfl, rfl⟩

/-- An access that does not reset (R280, R281). -/
theorem Evolves.of_perform {x : HostAccess} {s t : State} (h : perform x s = .next t) (hx : x.resets = false) :
    Evolves (x.IssuesBuild t.status.cond) s t := by
  cases x with
  | reset => cases hx
  | read idx =>
    simp only [perform] at h
    split at h
    · cases h
      exact .of_keepsTables ⟨rfl, rfl, rfl, rfl⟩
    · cases h
  | write idx v =>
    simp only [perform] at h
    split at h
    next target htarget => exact .of_writeTarget htarget h hx
    next => cases h

/-- The reset input and the soft reset have one effect (R281). -/
theorem perform_of_resets {x : HostAccess} (hx : x.resets = true) (s : State) :
    perform x s = .next (resetInput s) := by
  cases x with
  | reset => rfl
  | read idx => cases hx
  | write idx v =>
    obtain ⟨rfl, hv⟩ : idx = 0x01 ∧ v.getLsbD 0 = true := by simpa [HostAccess.resets] using hx
    have hctrl : perform (.write 0x01 v) s = .next (writeCtrl v s) := rfl
    rw [hctrl, writeCtrl, if_pos hv]

/-- After reset no slot is valid (R44). -/
theorem slotValid_resetInput (s : State) (kind : SlotKind) (n : Nat) : (resetInput s).slotValid kind n = false := by
  cases kind with
  | field => exact validBit_replicate (x := FieldSlot.empty) rfl n
  | bch => exact validBit_replicate (x := BchSlot.empty) rfl n
  | rs => exact validBit_replicate (x := RsSlot.empty) rfl n
  | sched => exact validBit_replicate (x := SchedSlot.empty) rfl n

/-- Settles O11: a step resets, and then no slot is valid, or the slots evolve. -/
theorem slotLifecycle : Obligations.SlotLifecycle := by
  intro s t x rest hp h
  rw [step_of_pending hp] at h
  cases hx : x.resets with
  | true =>
    rw [perform_of_resets hx] at h
    cases h
    refine ⟨fun _ _ _ _ => rfl, fun kind n _ ht => ?_, fun hno => nomatch hno⟩
    rw [slotValid_resetInput] at ht
    cases ht
  | false =>
    have hev : Evolves (x.IssuesBuild t.status.cond) s t := (Evolves.of_perform h hx).after ⟨rfl, rfl, rfl, rfl⟩
    refine ⟨fun kind n hs ht => ?kept, fun kind n hs ht => hev.slotValid_built hs ht,
      fun _ => ⟨hev.fields.kept, hev.bch.kept, hev.rs.kept, hev.sched.kept⟩⟩
    case kept =>
      rw [hev.slotValid_kept hs] at ht
      cases ht

end Sys2Proof.Machine
end

section
/-! PROOFS. The command word (30_encoding.md R80 to R85): decoding reads the three fields of a word, and both the encoder
and the rows of the opcode table say which fields a word has. -/

namespace Sys2Proof

/-! ### The fields of a word (R80) -/

theorem opcField_eq (w : Word) : opcField w = w.toNat % 256 := by
  simp [opcField, BitVec.extractLsb'_toNat]

theorem selField_eq (w : Word) : selField w = w.toNat / 256 % 16 := by
  simp [selField, BitVec.extractLsb'_toNat, Nat.shiftRight_eq_div_pow]

theorem zeroField_eq (w : Word) : zeroField w = w.toNat / 4096 := by
  have hw : w.toNat < 2 ^ 32 := w.isLt
  rw [zeroField, BitVec.extractLsb'_toNat, Nat.shiftRight_eq_div_pow]
  exact Nat.mod_eq_of_lt (by omega)

theorem opcField_testBit (w : Word) (n : Nat) : (opcField w).testBit n = (decide (n < 8) && w.getLsbD n) := by
  rw [opcField_eq, show 256 = 2 ^ 8 from rfl, Nat.testBit_mod_two_pow, BitVec.testBit_toNat]

theorem zeroField_testBit (w : Word) (n : Nat) : (zeroField w).testBit n = w.getLsbD (12 + n) := by
  rw [zeroField_eq, show 4096 = 2 ^ 12 from rfl, Nat.testBit_div_two_pow, BitVec.testBit_toNat, Nat.add_comm]

/-! ### Decoding and encoding -/

theorem withoutSelector_eq_ok_iff {opc sel : Nat} {i j : Instr} :
    withoutSelector opc sel i = .ok j ↔ sel = 0 ∧ i = j := by
  unfold withoutSelector
  split
  next h => simp [h]
  next h => simp [h]

/-- A row is chosen by the operation code alone; the selector goes into the instruction (R83). -/
theorem decodeRow_eq_ok_iff {opc sel : Nat} {i : Instr} :
    decodeRow opc sel = .ok i ↔ i.opcode = opc ∧ i.selector.getD 0 = sel := by
  constructor
  · intro h
    unfold decodeRow at h
    split at h
    all_goals first
      | cases h; exact ⟨rfl, rfl⟩
      | obtain ⟨rfl, rfl⟩ := withoutSelector_eq_ok_iff.1 h; exact ⟨rfl, rfl⟩
      | cases h
  · rintro ⟨rfl, rfl⟩
    cases i <;> rfl

theorem decode_eq_ok_iff {w : Word} {i : Instr} :
    decode w = .ok i ↔ zeroField w = 0 ∧ i.opcode = opcField w ∧ i.selector.getD 0 = selField w := by
  unfold decode
  split
  next h => simp [decodeRow_eq_ok_iff, h]
  next h => simp [h]

theorem Instr.wellFormed_iff (i : Instr) : i.wellFormed = true ↔ i.selector.getD 0 < 16 := by
  unfold Instr.wellFormed
  cases i.selector with
  | none => simp
  | some n => simp

/-- The fields of the word of a well-formed instruction are its operation code, its selector and zeros. -/
theorem encode_eq_iff {w : Word} {i : Instr} (hi : i.selector.getD 0 < 16) :
    encode i = w ↔ zeroField w = 0 ∧ i.opcode = opcField w ∧ i.selector.getD 0 = selField w := by
  have hopc := Laws.opcode_lt i
  rw [encode, ← BitVec.toNat_inj, Machine.word32_toNat _ (by omega), zeroField_eq, opcField_eq, selField_eq]
  omega

/-- Settles O4: both sides say which fields the word has. -/
theorem decodeEncodeAgree : Obligations.DecodeEncodeAgree := by
  intro w i
  rw [decode_eq_ok_iff, Instr.wellFormed_iff]
  constructor
  · rintro ⟨hzero, hopc, hsel⟩
    have hi : i.selector.getD 0 < 16 := by rw [hsel, selField_eq]; omega
    exact ⟨hi, (encode_eq_iff hi).2 ⟨hzero, hopc, hsel⟩⟩
  · rintro ⟨hi, hw⟩
    exact (encode_eq_iff hi).1 hw

/-- Settles O5. -/
theorem someWordsDecode : Obligations.SomeWordsDecode := by
  unfold Obligations.SomeWordsDecode
  decide

/-! ### The rows of the opcode table (R84) -/

/-- The mask of the rows with a selector leaves out bits 11 to 8. -/
theorem selectorMask_bit {n : Nat} (hn : n < 32) :
    (0xFFFFF0FF : Word).getLsbD n = (decide (n < 8) || decide (12 ≤ n)) := by
  have all : ∀ k : Fin 32, (0xFFFFF0FF : Word).getLsbD k = (decide (k.1 < 8) || decide (12 ≤ k.1)) := by decide
  exact all ⟨n, hn⟩

theorem and_selectorMask_eq_iff {w : Word} {opc : Nat} (hopc : opc < 256) :
    w &&& 0xFFFFF0FF = word32 opc ↔ opc = opcField w ∧ zeroField w = 0 := by
  have hhigh : ∀ n, 8 ≤ n → opc.testBit n = false := fun n hn =>
    Nat.testBit_lt_two_pow (hopc.trans_le (Nat.pow_le_pow_right Nat.two_pos hn))
  constructor
  · intro h
    have hbit : ∀ n, n < 32 → (w.getLsbD n && (decide (n < 8) || decide (12 ≤ n))) = opc.testBit n := fun n hn => by
      rw [← selectorMask_bit hn, ← BitVec.getLsbD_and, h, BitVec.getLsbD_ofNat, decide_eq_true hn, Bool.true_and]
    constructor
    · refine Nat.eq_of_testBit_eq fun n => ?_
      by_cases hn : n < 8
      · simpa [opcField_testBit, hn] using (hbit n (by omega)).symm
      · simp [opcField_testBit, hn, hhigh n (by omega)]
    · refine Nat.eq_of_testBit_eq fun n => ?_
      rw [zeroField_testBit, Nat.zero_testBit]
      by_cases hn : 12 + n < 32
      · simpa [hhigh (12 + n) (by omega)] using hbit (12 + n) hn
      · exact BitVec.getLsbD_of_ge w _ (by omega)
  · rintro ⟨rfl, hzero⟩
    refine BitVec.eq_of_getLsbD_eq fun n hn => ?_
    have hz : 12 ≤ n → w.getLsbD n = false := fun h => by
      have := congrArg (·.testBit (n - 12)) hzero
      simpa [zeroField_testBit, Nat.add_sub_cancel' h] using this
    rw [BitVec.getLsbD_and, selectorMask_bit hn, BitVec.getLsbD_ofNat, opcField_testBit, decide_eq_true hn, Bool.true_and]
    by_cases h8 : n < 8
    · simp [h8]
    · by_cases h12 : 12 ≤ n
      · simp [h8, hz h12]
      · simp [h8, h12]

/-- What it is to match a row: its operation code, zeros above the selector, and no selector where the row has none. -/
theorem matchesRow_iff {w : Word} {i : Instr} :
    w &&& i.rowMask = i.rowMatch ↔
      i.opcode = opcField w ∧ zeroField w = 0 ∧ (i.selector = none → selField w = 0) := by
  have hopc := Laws.opcode_lt i
  unfold Instr.rowMask Instr.rowMatch
  cases hs : i.selector with
  | some n =>
    have hrow := and_selectorMask_eq_iff (w := w) hopc
    simpa using hrow
  | none =>
    have hones : w &&& 0xFFFFFFFF = w := BitVec.and_allOnes
    rw [hones, ← BitVec.toNat_inj, Machine.word32_toNat _ (by omega), zeroField_eq, opcField_eq, selField_eq, eq_self,
      true_imp_iff]
    omega

/-- A row that a word matches is the row it decodes by, with the word's selector. -/
theorem decodeRow_of_opcode (j : Instr) {sel : Nat} (h : j.selector = none → sel = 0) :
    ∃ i, decodeRow j.opcode sel = .ok i := by
  cases hs : j.selector with
  | none =>
    obtain rfl := h hs
    exact ⟨j, decodeRow_eq_ok_iff.2 ⟨rfl, by simp [hs]⟩⟩
  | some n => cases j <;> first | exact ⟨_, rfl⟩ | cases hs

theorem decode_isOk_iff {w : Word} : (∃ i, decode w = .ok i) ↔ ∃ j : Instr, w &&& j.rowMask = j.rowMatch := by
  constructor
  · rintro ⟨i, hi⟩
    obtain ⟨hzero, hopc, hsel⟩ := decode_eq_ok_iff.1 hi
    exact ⟨i, matchesRow_iff.2 ⟨hopc, hzero, fun h => by simpa [h] using hsel.symm⟩⟩
  · rintro ⟨j, hj⟩
    obtain ⟨hopc, hzero, hsel⟩ := matchesRow_iff.1 hj
    obtain ⟨i, hi⟩ := decodeRow_of_opcode j hsel
    exact ⟨i, by rw [decode, if_pos hzero, ← hopc, hi]⟩

/-- Settles O6: a word that matches two rows has one operation code. -/
theorem decodeFollowsTheTable : Obligations.DecodeFollowsTheTable := by
  refine fun w => ⟨fun i hi => ?_, ?_⟩
  · obtain ⟨hzero, hopc, hsel⟩ := decode_eq_ok_iff.1 hi
    refine ⟨matchesRow_iff.2 ⟨hopc, hzero, fun h => by simpa [h] using hsel.symm⟩, fun j hj => ?_⟩
    rw [Instr.rowMatch, Instr.rowMatch, (matchesRow_iff.1 hj).1, hopc]
  · have herror : (∃ e, decode w = .error e) ↔ ¬ ∃ i, decode w = .ok i := by cases decode w <;> simp
    rw [herror, decode_isOk_iff, not_exists]

end Sys2Proof
end

section
/-! PROOFS. The host's side (10_state.md R21 to R27, 20_memory.md R60 to R66, 70_reset_and_hazards.md R280, R281): what an
access to each index does, acceptance of a command word, and reset. -/

namespace Sys2Proof.Machine

open Sys2Proof.Config

/-! ### Accesses to a target -/

theorem step_read {s : State} {idx : Nat} {rest : List HostAccess} {target : Target}
    (hp : s.pending = .read idx :: rest) (ht : targetOf idx = some target) :
    step s = .next { s with pending := rest, busData := some (readTarget { s with pending := rest } target) } := by
  rw [step_of_pending hp]
  simp only [perform, ht]

theorem step_write {s : State} {idx : Nat} {v : Word} {rest : List HostAccess} {target : Target}
    (hp : s.pending = .write idx v :: rest) (ht : targetOf idx = some target) :
    step s = writeTarget v { s with pending := rest } target := by
  rw [step_of_pending hp]
  simp only [perform, ht]

/-- The windows of the buffers (R60). -/
theorem targetOf_windowBase (bid : BufId) {i : Nat} (hi : i < VLEN) :
    targetOf (windowBase bid + i) = some (.cell bid i) := by
  have hi : i < 4096 := hi
  have hlarge : ¬ windowBase bid + i < 0x20 := by rw [windowBase]; omega
  have hdiv : (windowBase bid + i) / 4096 = bid.number + 1 := by rw [windowBase]; omega
  have hmod : (windowBase bid + i) % 4096 = i := by rw [windowBase]; omega
  rw [targetOf, if_neg hlarge, cellTarget, hdiv, hmod]
  cases bid <;> rfl

/-- The windows of the output buffers (R60). -/
theorem targetOf_outputWindow {idx : Nat} (hlo : 0x4000 ≤ idx) (hhi : idx ≤ 0x5FFF) :
    ∃ bid, bid.isInput = false ∧ targetOf idx = some (.cell bid (idx % VLEN)) := by
  have hrest : idx % 4096 < VLEN := Nat.mod_lt _ (by decide)
  have hsplit : idx = windowBase .r + idx % 4096 ∨ idx = windowBase .q + idx % 4096 := by
    simp only [windowBase, BufId.number]
    omega
  obtain h | h := hsplit
  · exact ⟨.r, rfl, by conv_lhs => rw [h]
                       exact targetOf_windowBase .r hrest⟩
  · exact ⟨.q, rfl, by conv_lhs => rw [h]
                       exact targetOf_windowBase .q hrest⟩

/-- `STATUS` as the host reads it (R24, R240). -/
theorem status_word_eq (x : Status) :
    x.word =
      (match x.cond with
        | .ok => 0
        | .parseError => 1
        | .inputTooShort => 2
        | .divisionByZero => 3
        | .uncorrectable => 4
        | .locatorNotFound => 5
        | .uncorrectableMessage => 6
        | .configError => 7
        | .illegalCommand => 8
        | .operandRange => 9
        | .lengthError => 10
        | .tableNotBuilt => 11 : Word) |||
      (if x.done then 0x100 else 0) ||| (if x.halted then 0x200 else 0) := by
  obtain ⟨cond, done, halted⟩ := x
  cases cond <;> cases done <;> cases halted <;> decide

/-- Settles O14: every mapped index names its register or cell (R23, R60). -/
theorem hostReadsReturn : Obligations.HostReadsReturn := by
  intro s rest idx v hp h
  rcases h with ⟨rfl, rfl⟩ | ⟨rfl, rfl⟩ | ⟨rfl, rfl⟩ | ⟨rfl, rfl⟩ | ⟨rfl, rfl⟩ | ⟨rfl, rfl⟩ | ⟨rfl, rfl⟩ | ⟨rfl, rfl⟩ |
    ⟨rfl, rfl⟩ | ⟨rfl, rfl⟩ | ⟨rfl, rfl⟩ | ⟨rfl, rfl⟩ | ⟨rfl, rfl⟩ | ⟨rfl, rfl⟩ | ⟨rfl, rfl⟩ | ⟨rfl, rfl⟩ |
    ⟨rfl, rfl⟩ | ⟨rfl, rfl⟩ | ⟨rfl, rfl⟩ | ⟨rfl, rfl⟩ | ⟨bid, i, hi, rfl, rfl⟩
  iterate 2 exact step_read hp rfl
  · rw [step_read hp (target := .status) rfl]
    exact congrArg (fun w => Host.Outcome.next { s with pending := rest, busData := some w }) (status_word_eq s.status)
  iterate 17 exact step_read hp rfl
  · rw [step_read hp (targetOf_windowBase bid hi)]
    cases bid <;> rfl

/-- Settles O15: every mapped index but those of `CMD` and `CTRL` names what is stored to, or what ignores the write (R23,
R25, R63). -/
theorem hostWritesStore : Obligations.HostWritesStore := by
  intro s u t rest idx v hp hu h
  subst hu
  rcases h with ⟨hidx, rfl⟩ | ⟨rfl, rfl⟩ | ⟨rfl, rfl⟩ | ⟨rfl, rfl⟩ | ⟨rfl, rfl⟩ | ⟨rfl, rfl⟩ | ⟨rfl, rfl⟩ | ⟨rfl, rfl⟩ |
    ⟨rfl, rfl⟩ | ⟨bid, i, hin, hi, rfl, rfl⟩
  · rcases hidx with rfl | rfl | rfl | rfl | rfl | rfl | rfl | rfl | rfl | rfl | ⟨hlo, hhi⟩
    iterate 10 exact step_write hp rfl
    obtain ⟨bid, hout, htarget⟩ := targetOf_outputWindow hlo hhi
    rw [step_write hp htarget, writeTarget, hout]
    rfl
  iterate 8 exact step_write hp rfl
  · rw [step_write hp (targetOf_windowBase bid hi), writeTarget, if_pos hin]

/-- What a write to a cell leaves (R63). -/
def storeCell (s : State) (bid : BufId) (i : Nat) (v : Word) : State :=
  if bid.isInput then writeCell s bid i (v.setWidth 16) else s

theorem storeCell_pending (s : State) (bid : BufId) (i : Nat) (v : Word) :
    (storeCell s bid i v).pending = s.pending := by
  unfold storeCell
  split
  · exact writeCell_pending ..
  · rfl

theorem readCell_storeCell_same (s : State) (bid : BufId) (i : Nat) (v : Word) :
    readCell (storeCell s bid i v) bid i = if bid.isInput then v.setWidth 16 else readCell s bid i := by
  unfold storeCell
  split
  · exact readCell_writeCell_same ..
  · rfl

theorem readCell_storeCell_other (s : State) {bid other : BufId} {i j : Nat} (v : Word) (h : other ≠ bid ∨ j ≠ i) :
    readCell (storeCell s bid i v) other j = readCell s other j := by
  unfold storeCell
  split
  · by_cases hb : other = bid
    · subst hb
      exact readCell_writeCell_other s other _ (h.resolve_left (not_not_intro rfl))
    · exact readCell_setBuf_other s _ hb j
  · rfl

theorem lenOf_storeCell (s : State) (bid other : BufId) (i : Nat) (v : Word) :
    (storeCell s bid i v).lenOf other = s.lenOf other := by
  unfold storeCell
  split
  · cases bid <;> cases other <;> rfl
  · rfl

/-- Settles O16: the write stores, the read returns what is stored. -/
theorem cellReadsBack : Obligations.CellReadsBack := by
  intro s rest bid i v hi hp
  have htarget := targetOf_windowBase bid hi
  let s₀ : State := { s with pending := .read (windowBase bid + i) :: rest }
  have hwrite : step s = .next (storeCell s₀ bid i v) := step_write hp htarget
  refine ⟨_, _, hwrite, step_read ((storeCell_pending s₀ bid i v).trans rfl) htarget, ?_, fun other j h => ?_,
    fun other => ?_⟩
  · have hread := readCell_storeCell_same s₀ bid i v
    have hlow : v.setWidth 16 = v.extractLsb' 0 16 := BitVec.setWidth_eq_extractLsb' (by decide)
    show some ((readCell (storeCell s₀ bid i v) bid i).setWidth 32) = _
    rw [hread, hlow]
    split <;> rfl
  · exact readCell_storeCell_other s₀ v h
  · exact lenOf_storeCell s₀ bid other i v

/-! ### Commands -/

/-- Settles O3: a write to `CMD` is ignored by a halted core and otherwise accepted (R26, R27, R85). -/
theorem stepRunsDecodedCommand : Obligations.StepRunsDecodedCommand := by
  refine ⟨fun s rest w hp => ⟨fun hh => ?halted, fun hh => ?running⟩, fun s nbits v => rfl⟩
  case halted =>
    have hc := perform_cmd { s with pending := rest } w
    rw [step_of_pending hp]
    simp only [hh, if_true] at hc
    exact hc
  case running =>
    have haccept : accept w { s with pending := rest } =
        { s with
          pending := rest
          lastcmd := w
          cmdseq := BitVec.ofNat 32 ((s.cmdseq.toNat + 1) % 2 ^ 32)
          status := { cond := s.status.cond, done := true, halted := false } } := by
      have hseq : s.cmdseq + 1 = BitVec.ofNat 32 ((s.cmdseq.toNat + 1) % 2 ^ 32) := by
        apply BitVec.eq_of_toNat_eq
        simp [BitVec.toNat_add]
      rw [accept, ← hseq, ← hh]
    intro a
    rw [← show accept w { s with pending := rest } = a from haccept]
    refine ⟨fun i hd => ?_, fun e hd => ⟨_, step_illegal hp hh hd, ?_, ?_, rfl, rfl⟩⟩
    · have hc := perform_cmd { s with pending := rest } w
      rw [step_of_pending hp]
      simp only [hh, hd] at hc
      exact hc
    · exact endsWith_endWith rfl rfl
    · have hstatus : (endWith .illegalCommand (accept w { s with pending := rest })).status =
          { cond := .illegalCommand, done := true, halted := false } := by
        simp [Status.endWith, hh, Cond.fatal]
      rw [hstatus]
      decide

/-- Settles O7: a command ends with one condition over a state in which it has written its outputs alone. -/
theorem noCommandStops : Obligations.NoCommandStops := by
  intro s i
  obtain ⟨k, u, hk, hu, hr⟩ := (exec_ends i s s.evlog).answer
  exact ⟨endWith k u, raise_eq_next.2 rfl ▸ hr, endsWith_endWith hu.status hu.evlog, keepsControl_endWith hu.control, hk⟩

/-- Settles O59. -/
theorem nopCompletes : Obligations.NopCompletes := fun s =>
  ⟨endWith .ok s, rfl, rfl, rfl, endsOk_endWith rfl rfl, keepsControl_endWith (keepsControl_refl s)⟩

/-! ### Reset (R280, R281) -/

/-- Entering the reset state leaves it as R44 lists it. -/
theorem inResetState_resetInput (s : State) : InResetState (resetInput s) where
  status := (by decide : State.reset.status.word = 0)
  statusFields := rfl
  evlog := rfl
  cmdseq := rfl
  lastcmd := rfl
  arg := rfl
  res := rfl
  lengths bid := by cases bid <;> rfl
  cells bid := by cases bid <;> rfl
  slots kind n := slotValid_resetInput s kind n

/-- The state right after power-up is as R44 lists it. -/
theorem inResetState_reset : InResetState State.reset where
  status := by decide
  statusFields := rfl
  evlog := rfl
  cmdseq := rfl
  lastcmd := rfl
  arg := rfl
  res := rfl
  lengths bid := by cases bid <;> rfl
  cells bid := by cases bid <;> rfl
  slots kind n := by
    have h := slotValid_resetInput State.reset kind n
    cases kind <;> exact h

/-- Settles O12. -/
theorem resetEntersResetState : Obligations.ResetEntersResetState := by
  refine ⟨inResetState_reset, fun s rest hp => ?_⟩
  exact ⟨_, step_of_pending hp, inResetState_resetInput _, rfl, rfl⟩

/-- What leaves `STATUS` alone or a command; a soft reset is a write to `CTRL` (R23, R27). -/
theorem writeTarget_status {v : Word} {s t : State} {target : Target} (h : writeTarget v s target = .next t)
    (hcmd : target ≠ .cmd) : t.status = s.status ∨ target = .ctrl ∧ v.getLsbD 0 = true := by
  cases target with
  | cmd => exact absurd rfl hcmd
  | ctrl =>
    cases h
    by_cases hv : v.getLsbD 0 = true
    · exact .inr ⟨rfl, hv⟩
    · exact .inl (by rw [writeCtrl, if_neg hv])
  | len bid | cell bid i => cases h; exact .inl (by split <;> simp)
  | id | status | evlog | cmdseq | lastcmd | arg i | res i => cases h; exact .inl rfl

/-- A halted core stays halted until reset (R245, R281). -/
theorem halted_of_perform {x : HostAccess} {s t : State} (h : perform x s = .next t) (hh : s.status.halted = true)
    (hx : x.resets = false) : t.status.halted = true := by
  cases x with
  | reset => cases hx
  | read idx =>
    simp only [perform] at h
    split at h
    · cases h; exact hh
    · cases h
  | write idx v =>
    simp only [perform] at h
    split at h
    next target htarget =>
      by_cases hcmd : target = .cmd
      · subst hcmd
        rw [writeTarget, writeCmd, if_pos hh] at h
        cases h
        exact hh
      · obtain hs | ⟨rfl, hv⟩ := writeTarget_status h hcmd
        · rw [hs, hh]
        · rw [HostAccess.resets, targetOf_eq_ctrl htarget, hv] at hx
          cases hx
    next => cases h

/-- Settles O13. -/
theorem softResetIsReset : Obligations.SoftResetIsReset := by
  refine ⟨fun s rest v hp => ⟨fun hv => ?soft, fun hv => ?clear⟩, fun s t x rest hp h hh ht => ?leave⟩
  case soft =>
    have hstep : step s = .next (resetInput { s with pending := rest }) := by
      rw [step_of_pending hp]
      exact perform_of_resets (by simp [HostAccess.resets, hv]) _
    exact ⟨hstep, _, hstep, rfl, by simp [resetInput, State.reset], slotValid_resetInput _⟩
  case clear =>
    rw [step_write hp (target := .ctrl) rfl, writeTarget, writeCtrl, if_neg (Bool.not_eq_true _ ▸ hv)]
  case leave =>
    rw [step_of_pending hp] at h
    by_contra hx
    have := halted_of_perform h hh (Bool.eq_false_of_not_eq_true hx)
    rw [ht] at this
    cases this

end Sys2Proof.Machine
end

section
/-! PROOFS. How long the outputs of the commands are. -/

namespace Sys2Proof.Machine

open Sys2Proof.Config

/-! ### Puncture Codec and framer -/

theorem depunctureFrom_length (t : SchedSlot) (n i : Nat) (kept : List Nat) :
    (depunctureFrom t n i kept).length = n := by
  induction n generalizing i kept with
  | zero => rfl
  | succ n ih =>
    rw [depunctureFrom]
    split <;> rw [List.length_cons, ih]

theorem depuncture_length (t : SchedSlot) (kept : List Nat) (L : Nat) : (depuncture t kept L).length = L :=
  depunctureFrom_length t L 0 kept

theorem normalize_length (bits : List Nat) (swapped : Nat) : (normalize bits swapped).length = bits.length := by
  unfold normalize
  split
  · rfl
  · exact reverseGroups_length (Nat.mul_div_le ..)

theorem deinterleave_length (v : List Nat) {S : Nat} (hS : 1 ≤ S) : (deinterleave v S).length = v.length :=
  (deinterleave_perm v hS).length_eq

/-! ### Reed-Solomon codec -/

theorem xorPrefix_length (out xs : List Nat) : (xorPrefix out xs).length = out.length := by
  induction out generalizing xs with
  | nil => cases xs <;> rfl
  | cons o out ih =>
    cases xs with
    | nil => rfl
    | cons x xs => rw [xorPrefix, List.length_cons, ih, List.length_cons]

theorem rsDivide_length (t : FieldSlot) (g : List Nat) (steps : Nat) (out : List Nat) :
    (rsDivide t g steps out).length = out.length - steps := by
  induction steps generalizing out with
  | zero => rfl
  | succ steps ih =>
    cases out with
    | nil => simp [rsDivide]
    | cons c out =>
      rw [rsDivide, ih]
      split
      · simp
      · rw [xorPrefix_length]
        simp

theorem rsParity_length (t : FieldSlot) (k : RsSlot) (msg : List Nat) : (rsParity t k msg).length = k.nsym := by
  rw [rsParity, rsDivide_length, List.length_append, List.length_replicate, Nat.add_sub_cancel_left]

theorem rsEncode_length (t : FieldSlot) (k : RsSlot) (msg : List Nat) :
    (rsEncode t k msg).length = msg.length + k.nsym := by
  rw [rsEncode, List.length_append, rsParity_length]

theorem rsSyndromes_length (t : FieldSlot) (k : RsSlot) (recv : List Nat) :
    (rsSyndromes t k recv).length = k.nsym := by
  rw [rsSyndromes, List.length_map, List.length_range]

theorem timesRoot_length (t : FieldSlot) (lo : List Nat) (x : Nat) : (timesRoot t lo x).length = lo.length + 1 := by
  simp [timesRoot]

theorem foldl_timesRoot_length (t : FieldSlot) (xs lo : List Nat) :
    (xs.foldl (timesRoot t) lo).length = lo.length + xs.length := by
  induction xs generalizing lo with
  | nil => rfl
  | cons x xs ih =>
    rw [List.foldl_cons, ih, timesRoot_length, List.length_cons]
    omega

theorem locatorOf_length (t : FieldSlot) (xs : List Nat) : (locatorOf t xs).length = xs.length + 1 := by
  rw [locatorOf, foldl_timesRoot_length, List.length_singleton, Nat.add_comm]

theorem xorPad_length (p q : List Nat) : (xorPad p q).length = max p.length q.length := by
  rw [xorPad, xorLists_length, List.length_append, List.length_append, List.length_replicate, List.length_replicate]
  omega

theorem polyScale_length (t : FieldSlot) (p : List Nat) (c : Nat) : (polyScale t p c).length = p.length :=
  List.length_map ..

/-- A pass of the loop makes neither polynomial longer than one place more than the longer of the two (R159). -/
theorem bmStep_length_le (t : FieldSlot) (syn : List Nat) (rho : Nat) (x : BmState) (k : Nat) {n : Nat}
    (hlo : x.lo.length ≤ n) (haux : x.aux.length ≤ n) :
    (bmStep t syn rho x k).lo.length ≤ n + 1 ∧ (bmStep t syn rho x k).aux.length ≤ n + 1 := by
  unfold bmStep
  dsimp only
  split
  · simp only [List.length_cons]; omega
  · split <;> simp only [xorPad_length, polyScale_length, List.length_cons] <;> omega

theorem foldl_bmStep_length_le (t : FieldSlot) (syn : List Nat) (rho : Nat) (ks : List Nat) (x : BmState) {n : Nat}
    (hlo : x.lo.length ≤ n) (haux : x.aux.length ≤ n) :
    (ks.foldl (bmStep t syn rho) x).lo.length ≤ n + ks.length := by
  induction ks generalizing x n with
  | nil => exact hlo
  | cons k ks ih =>
    obtain ⟨hlo', haux'⟩ := bmStep_length_le t syn rho x k hlo haux
    have := ih (bmStep t syn rho x k) hlo' haux'
    rw [List.foldl_cons, List.length_cons]
    omega

theorem stripLeading_length_le (p : List Nat) : (stripLeading p).length ≤ p.length := by
  induction p using stripLeading.induct with
  | case1 => simp [stripLeading]
  | case2 x => simp [stripLeading]
  | case3 y rest ih => rw [stripLeading, if_pos rfl, List.length_cons]; omega
  | case4 x y rest hx => rw [stripLeading, if_neg hx]

/-- The locator has at most `nsym + 1` coefficients (R159). -/
theorem rsEloc_length_le (t : FieldSlot) (k : RsSlot) (syn : List Nat) {eras : List Nat} (n : Nat)
    (h : eras.length ≤ k.nsym) : (rsEloc t k syn eras n).length ≤ k.nsym + 1 := by
  have hlo := locatorOf_length t (eras.map fun e => locatorValue t k e n)
  rw [List.length_map] at hlo
  have hfold := foldl_bmStep_length_le t syn eras.length (List.range' eras.length (k.nsym - eras.length))
    { lo := locatorOf t (eras.map fun e => locatorValue t k e n)
      aux := locatorOf t (eras.map fun e => locatorValue t k e n), len := eras.length } hlo.le hlo.le
  refine (stripLeading_length_le _).trans ?_
  rw [List.length_range'] at hfold
  rw [List.length_reverse]
  omega

theorem rsEpos_length_le {t : FieldSlot} {k : RsSlot} {loc pos : List Nat} {n : Nat}
    (h : rsEpos t k loc n = some pos) : pos.length ≤ n := by
  unfold rsEpos at h
  dsimp only at h
  split at h
  · cases h
    rw [List.length_map]
    exact (List.length_filter_le ..).trans_eq List.length_range
  · cases h

theorem applyErrata_length {t : FieldSlot} {k : RsSlot} {lo om : List Nat} {n : Nat} {pos recv out : List Nat}
    (h : applyErrata t k lo om n pos recv = some out) : out.length = recv.length := by
  induction pos generalizing recv with
  | nil => cases h; rfl
  | cons p rest ih =>
    rw [applyErrata] at h
    split at h
    · cases h
    · rw [ih h, List.length_modify]

theorem rsCorr_length {t : FieldSlot} {k : RsSlot} {recv syn pos out : List Nat}
    (h : rsCorr t k recv syn pos = some out) : out.length = recv.length :=
  applyErrata_length h

/-- All that `rs_decode` can return with success: the received word itself, or the corrected one, cut in two (R165). -/
theorem rsDecode_ok_cases {t : FieldSlot} {k : RsSlot} {recv eras : List Nat} {d : Decoded}
    (h : rsDecode t k recv eras = .ok d) :
    (allZero (rsSyndromes t k recv) = true ∧ d = splitWord k.nsym recv 0) ∨
      (allZero (rsSyndromes t k recv) = false ∧ eras.length ≤ k.nsym ∧ ∃ pos cor,
        rsEpos t k (rsEloc t k (rsSyndromes t k recv) eras recv.length) recv.length = some pos ∧
        rsCorr t k recv (rsSyndromes t k recv) pos = some cor ∧ allZero (rsSyndromes t k cor) = true ∧
        d = splitWord k.nsym cor pos.length) := by
  unfold rsDecode at h
  dsimp only at h
  split at h
  next hz =>
    cases h
    exact .inl ⟨hz, rfl⟩
  next hz =>
    split at h
    next => cases h
    next hlen =>
      split at h
      next => cases h
      next pos hpos =>
        split at h
        next => cases h
        next cor hcor =>
          split at h
          next hcz =>
            cases h
            exact .inr ⟨Bool.eq_false_of_not_eq_true hz, Nat.le_of_not_lt hlen, pos, cor, hpos, hcor, hcz, rfl⟩
          next => cases h

/-- A decoded word is a word of the received length cut in two, with all syndromes zero, and no more positions are
counted than it has (R165). -/
theorem rsDecode_ok_word {t : FieldSlot} {k : RsSlot} {recv eras : List Nat} {d : Decoded}
    (h : rsDecode t k recv eras = .ok d) :
    ∃ word count, d = splitWord k.nsym word count ∧ word.length = recv.length ∧
      allZero (rsSyndromes t k word) = true ∧ count ≤ recv.length := by
  obtain ⟨hz, rfl⟩ | ⟨-, -, pos, cor, hpos, hcor, hz, rfl⟩ := rsDecode_ok_cases h
  · exact ⟨recv, 0, rfl, rfl, hz, Nat.zero_le _⟩
  · exact ⟨cor, pos.length, rfl, rsCorr_length hcor, hz, rsEpos_length_le hpos⟩

theorem splitWord_msg_length (nsym : Nat) (recv : List Nat) (count : Nat) :
    (splitWord nsym recv count).msg.length = recv.length - nsym := by
  rw [splitWord, List.length_take]
  omega

theorem splitWord_par_length {nsym : Nat} {recv : List Nat} (h : nsym ≤ recv.length) (count : Nat) :
    (splitWord nsym recv count).par.length = nsym := by
  rw [splitWord, List.length_drop]
  omega

end Sys2Proof.Machine
end

section
/-! PROOFS. Every step keeps a sound state sound (10_state.md R20 to R40): the contents, which the commands and the host
write, and the log with `STATUS`, which the end of a command writes. -/

namespace Sys2Proof.Machine

open Sys2Proof.Config

/-! ### The two halves of soundness -/

/-- The buffers and the slots of a sound state. -/
structure ContentSound (s : State) : Prop where
  memory : Memory.wf s
  outputR : s.r.Filled
  outputQ : s.q.Filled
  fieldSlots : ∀ f : Fin NF, s.fields[f].Sound
  bchSlots : ∀ c : Fin NBCH, s.bch[c].Sound
  rsSlots : ∀ r : Fin NRS, s.rs[r].Sound s.fields
  schedSlots : ∀ p : Fin NPS, s.sched[p].Sound

/-- The log and the status of a sound state. -/
structure LogSound (s : State) : Prop where
  logBits : s.evlog.getLsbD 0 = false ∧ s.evlog.getLsbD 1 = false ∧ s.evlog.toNat < 2 ^ 12
  haltedLogged : s.status.halted = s.evlog.getLsbD 7
  neverParse : s.status.cond ≠ .parseError
  beforeFirst : s.status.done = false → s.status.cond = .ok ∧ s.evlog = 0 ∧ s.cmdseq = 0 ∧ s.lastcmd = 0

theorem State.sound_iff {s : State} : s.Sound ↔ ContentSound s ∧ LogSound s :=
  ⟨fun h => ⟨⟨h.memory, h.outputR, h.outputQ, h.fieldSlots, h.bchSlots, h.rsSlots, h.schedSlots⟩,
      ⟨h.logBits, h.haltedLogged, h.neverParse, h.beforeFirst⟩⟩,
    fun ⟨c, l⟩ => ⟨c.memory, c.outputR, c.outputQ, c.fieldSlots, c.bchSlots, c.rsSlots, c.schedSlots, l.logBits,
      l.haltedLogged, l.neverParse, l.beforeFirst⟩⟩

theorem State.Sound.content {s : State} (h : s.Sound) : ContentSound s := (State.sound_iff.1 h).1

theorem State.Sound.log {s : State} (h : s.Sound) : LogSound s := (State.sound_iff.1 h).2

/-! ### The log -/

theorem Cond.code_ne_one {k : Cond} (h : k ≠ .parseError) : k.code ≠ 1 := by cases k <;> simp_all [Cond.code]

theorem Cond.fatal_eq_code (k : Cond) : k.fatal = decide (1 ≤ 7 ∧ 7 = k.code) := by cases k <;> rfl

theorem evlogRecord_lt (k : Cond) {e : Word} (h : e.toNat < 2 ^ 12) : (evlogRecord k e).toNat < 2 ^ 12 := by
  have hbit : ((1 : Word) <<< k.code).toNat < 2 ^ 12 := by cases k <;> decide
  unfold evlogRecord
  split
  · exact h
  · rw [BitVec.toNat_or]
    exact Nat.or_lt_two_pow h hbit

/-- The end of an accepted command keeps the log and the status sound (R25, R243, R245). -/
theorem LogSound.endWith {k : Cond} {u : State} (h : LogSound u) (hk : k ≠ .parseError) (hdone : u.status.done = true) :
    LogSound (endWith k u) where
  logBits := by
    obtain ⟨h0, h1, hlt⟩ := h.logBits
    refine ⟨?_, ?_, evlogRecord_lt k hlt⟩
    · rw [endWith_evlog, evlogRecord_bit_code k _ (by decide), h0]
      rfl
    · rw [endWith_evlog, evlogRecord_bit_code k _ (by decide), h1]
      simpa using (Cond.code_ne_one hk).symm
  haltedLogged := by
    rw [endWith_evlog, evlogRecord_bit_code k _ (by decide), endWith_status, status_endWith_halted, h.haltedLogged,
      Cond.fatal_eq_code]
  neverParse := hk
  beforeFirst hd := by
    rw [endWith_status, status_endWith_done, hdone] at hd
    cases hd

theorem LogSound.accept {s : State} (h : LogSound s) (w : Word) : LogSound (accept w s) where
  logBits := h.logBits
  haltedLogged := h.haltedLogged
  neverParse := h.neverParse
  beforeFirst hd := nomatch hd

/-- The host's clear spares bit 7 (R25). -/
theorem LogSound.clear {s : State} (h : LogSound s) (v : Word) :
    LogSound { s with evlog := evlogClear v s.evlog } where
  logBits := by
    obtain ⟨h0, h1, hlt⟩ := h.logBits
    refine ⟨?_, ?_, ?_⟩
    · simp only [evlogClear_bit _ _ _ (show 0 < 32 by decide), h0, Bool.false_and]
    · simp only [evlogClear_bit _ _ _ (show 1 < 32 by decide), h1, Bool.false_and]
    · rw [evlogClear, BitVec.toNat_and]
      exact Nat.and_le_left.trans_lt hlt
  haltedLogged := by
    rw [evlogClear_bit _ _ _ (show 7 < 32 by decide), decide_eq_true rfl, Bool.or_true, Bool.and_true]
    exact h.haltedLogged
  neverParse := h.neverParse
  beforeFirst hd := by
    obtain ⟨hc, he, hrest⟩ := h.beforeFirst hd
    exact ⟨hc, by simp [he, evlogClear], hrest⟩

/-! ### The contents -/

namespace ContentSound

variable {s u : State}

/-- The contents do not depend on the registers. -/
theorem of_eq (h : ContentSound s)
    (hu : u = { s with
      status := u.status, evlog := u.evlog, cmdseq := u.cmdseq, lastcmd := u.lastcmd, arg := u.arg, res := u.res
      pending := u.pending, busData := u.busData, fresh := u.fresh }) : ContentSound u := by
  rw [hu]
  exact ⟨h.memory, h.outputR, h.outputQ, h.fieldSlots, h.bchSlots, h.rsSlots, h.schedSlots⟩

theorem endWith (h : ContentSound s) (k : Cond) : ContentSound (endWith k s) := h.of_eq rfl

theorem setRes0 (h : ContentSound s) (v : Nat) : ContentSound (s.setRes0 v) := h.of_eq rfl

theorem setRes1 (h : ContentSound s) (v : Nat) : ContentSound (s.setRes1 v) := h.of_eq rfl

theorem setRes2 (h : ContentSound s) (v : Nat) : ContentSound (s.setRes2 v) := h.of_eq rfl

/-- What a command has written is exactly what its length register says. -/
theorem filled_writeOut {vs : List Nat} (hv : vs.length ≤ VLEN) (seed : Nat) :
    Buffer.Filled { cells := cellsFrom 0 (vs.map (BitVec.ofNat 16)), seed := seed, len := word32 vs.length } := by
  have hv : vs.length ≤ 4096 := hv
  have hlen : (word32 vs.length).toNat = vs.length := word32_toNat _ (by omega)
  refine ⟨hlen.le.trans hv, ?_⟩
  rw [cellsFrom_indices, List.length_map, hlen, List.range_eq_range']

theorem writeR (h : ContentSound s) {vs : List Nat} (hv : vs.length ≤ VLEN) : ContentSound (writeOut .r vs s) :=
  ⟨writeOut_wf h.memory hv, filled_writeOut hv _, h.outputQ, h.fieldSlots, h.bchSlots, h.rsSlots, h.schedSlots⟩

theorem writeQ (h : ContentSound s) {vs : List Nat} (hv : vs.length ≤ VLEN) : ContentSound (writeOut .q vs s) :=
  ⟨writeOut_wf h.memory hv, h.outputR, filled_writeOut hv _, h.fieldSlots, h.bchSlots, h.rsSlots, h.schedSlots⟩

/-- An input buffer may be replaced by any in canonical form. -/
theorem setInput (h : ContentSound s) {bid : BufId} {x : Buffer} (hb : bid.isInput = true) (hx : x.wf) :
    ContentSound (s.setBuf bid x) := by
  have hm : Memory.wf (s.setBuf bid x) := setBuf_wf h.memory hx
  cases bid with
  | a | b | c => exact ⟨hm, h.outputR, h.outputQ, h.fieldSlots, h.bchSlots, h.rsSlots, h.schedSlots⟩
  | r | q => cases hb

theorem wf_buf (h : ContentSound s) (bid : BufId) : (s.buf bid).wf := (memory_wf_iff s).1 h.memory bid

/-- Slots written one by one stay sound if what is written is. -/
theorem forall_set {α : Type} {n : Nat} {P : α → Prop} {slots : Vector α n} (h : ∀ j : Fin n, P slots[j]) {i : Nat}
    (hi : i < n) {x : α} (hx : P x) (j : Fin n) : P (slots.set i x hi)[j] := by
  simp only [Fin.getElem_fin, Vector.getElem_set]
  split
  · exact hx
  · exact h j

theorem getElem_fin_of_eq {α : Type} {n : Nat} {slots : Vector α n} {i : Nat} {j : Fin n} (h : i = j) :
    slots[j] = slots[i] := by
  subst h
  rfl

/-- A valid code refers to a valid field, so a field that is not valid may be replaced (R38). -/
theorem setField (h : ContentSound s) {f : Nat} (hf : f < NF) (hv : s.fields[f].valid = false) {x : FieldSlot}
    (hx : x.Sound) : ContentSound { s with fields := s.fields.set f x hf } where
  memory := h.memory
  outputR := h.outputR
  outputQ := h.outputQ
  fieldSlots := forall_set h.fieldSlots hf hx
  bchSlots := h.bchSlots
  rsSlots r hr := by
    obtain ⟨hvalid, hrest⟩ := h.rsSlots r hr
    have hne : f ≠ s.rs[r].field := by
      intro heq
      rw [getElem_fin_of_eq heq, hv] at hvalid
      cases hvalid
    have hsame : (s.fields.set f x hf)[s.rs[r].field] = s.fields[s.rs[r].field] := by
      simp only [Fin.getElem_fin]
      exact Vector.getElem_set_ne hf _ hne
    simp only [hsame]
    exact ⟨hvalid, hrest⟩
  schedSlots := h.schedSlots

/-- The order of a valid field is at most 255 (R9, R100). -/
theorem order_lt (h : ContentSound s) {f : Fin NF} (hv : s.fields[f].valid = true) : s.fields[f].order < 256 := by
  obtain ⟨-, hm, -⟩ := h.fieldSlots f hv
  have : 2 ^ s.fields[f].m ≤ 2 ^ 8 := Nat.pow_le_pow_right Nat.two_pos hm
  rw [FieldSlot.order]
  omega

/-- The field of a valid code is valid (R38). -/
theorem code_field_valid (h : ContentSound s) {r : Nat} {hr : r < NRS} (hv : s.rs[r].valid = true) :
    s.fields[s.rs[r].field].valid = true :=
  (h.rsSlots ⟨r, hr⟩ hv).1

theorem badCodeOperands_eq_false_iff {t : FieldSlot} {nsym fcr gen : Nat} :
    badCodeOperands t nsym fcr gen = false ↔
      1 ≤ nsym ∧ nsym ≤ MAXNSYM ∧ nsym ≤ t.order - 1 ∧ fcr ≤ t.order - 1 ∧ gen = t.gen.toNat := by
  simp only [badCodeOperands, Bool.or_eq_false_iff, decide_eq_false_iff_not, not_not]
  omega

theorem code_nsym_le (h : ContentSound s) {r : Nat} {hr : r < NRS} (hv : s.rs[r].valid = true) :
    s.rs[r].nsym ≤ MAXNSYM := by
  obtain ⟨-, hbad, -⟩ := h.rsSlots ⟨r, hr⟩ hv
  exact (badCodeOperands_eq_false_iff.1 hbad).2.1

end ContentSound

/-! ### What a command answers -/

/-- The command ends over a state with sound contents. -/
def EndsSound (r : Result) : Prop := ∃ k u, ContentSound u ∧ r = raise k u

namespace EndsSound

variable {s u : State} {b : Result}

theorem raised {k : Cond} (h : ContentSound u) : EndsSound (raise k u) := ⟨k, u, h, rfl⟩

theorem completed (h : ContentSound u) : EndsSound (complete u) := raised h

/-- What comes after a check may use that it has passed. -/
theorem check {c : Prop} [Decidable c] {k : Cond} (h : ContentSound s) (hb : ¬ c → EndsSound b) :
    EndsSound (if c then raise k s else b) := by
  split
  next => exact raised h
  next hc => exact hb hc

/-- Steps 3 and 4 of a command that uses a slot (R86). -/
theorem slot {α : Type} {n : Nat} {slots : Vector α n} {valid : α → Bool} {j : Nat} {go : α → Result}
    (h : ContentSound s) (hgo : ∀ hj : j < n, valid slots[j] = true → EndsSound (go slots[j])) :
    EndsSound (withBuilt slots valid j s go) := by
  unfold withBuilt
  split
  next hj =>
    split
    next hv => exact hgo hj hv
    next => exact raised h
  next => exact raised h

/-- Steps 3 and 4 of a build command (R86). -/
theorem freeSlot {α : Type} {n : Nat} {slots : Vector α n} {valid : α → Bool} {j : Nat} {go : j < n → Result}
    (h : ContentSound s) (hgo : ∀ hj : j < n, valid slots[j] = false → EndsSound (go hj)) :
    EndsSound (withUnbuilt slots valid j s go) := by
  unfold withUnbuilt
  split
  next hj =>
    split
    next => exact raised h
    next hv => exact hgo hj (Bool.eq_false_of_not_eq_true hv)
  next => exact raised h

/-- Steps 3 and 4 of a Reed-Solomon command: its field is small, and its code has few parity symbols (R86, R150). -/
theorem code {r : Nat} {go : RsSlot → FieldSlot → Result} (h : ContentSound s)
    (hgo : ∀ k t, k.nsym ≤ MAXNSYM → t.order < 256 → EndsSound (go k t)) : EndsSound (withCode r s go) :=
  slot h fun _ hv => hgo _ _ (h.code_nsym_le hv) (h.order_lt (h.code_field_valid hv))

/-- Both ends of `BCH.REPAIR` and `BCH.LOOKUP` (R136, R138). -/
theorem repair (h : ContentSound s) {bits : List Nat} (hb : bits.length ≤ VLEN) (syndrome : Nat)
    (found : Option (Nat × Nat)) : EndsSound (writeRepair bits syndrome found s) := by
  cases found with
  | none => exact raised (((h.writeR hb).setRes0 _).setRes1 _)
  | some p => exact completed (((h.writeR (by simpa using hb)).setRes0 _).setRes1 _)

end EndsSound

theorem lengthOutside_eq_false_iff {lo hi n : Nat} : ¬ lengthOutside lo hi n = true ↔ lo ≤ n ∧ n ≤ hi := by
  simp only [lengthOutside, Bool.or_eq_true, decide_eq_true_eq]
  omega

/-! The commands, in the order of the opcode table (R83). Field Engine (R102, R108 to R112, R115, R116). -/

theorem badFieldOperands_eq_false_iff {prim gen m : Nat} :
    badFieldOperands prim gen m = false ↔
      1 ≤ m ∧ m ≤ MAXM ∧ 2 ^ m ≤ prim ∧ prim < 2 ^ (m + 1) ∧ 1 ≤ gen ∧ gen ≤ 2 ^ m - 1 := by
  unfold badFieldOperands
  split
  next h =>
    simp only [Bool.or_eq_true, decide_eq_true_eq] at h
    simp only [Bool.true_eq_false, false_iff]
    omega
  next h =>
    simp only [Bool.or_eq_true, decide_eq_true_eq] at h
    simp only [Bool.or_eq_false_iff, decide_eq_false_iff_not]
    omega

/-- Operands in range fit the fields of the slot (R32). -/
theorem fieldOperands_fit {prim gen m : Nat} (h : badFieldOperands prim gen m = false) :
    (BitVec.ofNat 9 prim).toNat = prim ∧ (BitVec.ofNat 8 gen).toNat = gen := by
  obtain ⟨-, hm, -, hprim, -, hgen⟩ := badFieldOperands_eq_false_iff.1 h
  have h9 : 2 ^ (m + 1) ≤ 2 ^ 9 := Nat.pow_le_pow_right Nat.two_pos (Nat.succ_le_succ hm)
  have h8 : 2 ^ m ≤ 2 ^ 8 := Nat.pow_le_pow_right Nat.two_pos hm
  have hpos : 0 < 2 ^ m := Nat.two_pow_pos m
  constructor
  · rw [BitVec.toNat_ofNat, Nat.mod_eq_of_lt (by omega)]
  · rw [BitVec.toNat_ofNat, Nat.mod_eq_of_lt (by omega)]

variable {s : State}

theorem execGfBuild_sound (h : ContentSound s) (f : Nat) : EndsSound (execGfBuild f s) :=
  .freeSlot h fun hf hv => .check h fun hbad => by
    have hbad := Bool.eq_false_of_not_eq_true hbad
    cases htab : buildTables s.arg0 s.arg1 s.arg2 with
    | none => exact .raised (h.setField hf hv fun hx => by rw [hv] at hx; cases hx)
    | some tables =>
      obtain ⟨hprim, hgen⟩ := fieldOperands_fit hbad
      obtain ⟨hm1, hm8, hp, hp', hg, hg'⟩ := badFieldOperands_eq_false_iff.1 hbad
      refine .completed (h.setField hf hv fun _ => ?_)
      simp only [hprim, hgen]
      exact ⟨hm1, hm8, hp, hp', hg, hg', htab⟩

theorem execGfAdd_sound (h : ContentSound s) (f : Nat) : EndsSound (execGfAdd f s) :=
  .slot h fun _ _ => .check h fun _ => .completed (h.setRes0 _)

theorem execGfMul_sound (h : ContentSound s) (f : Nat) : EndsSound (execGfMul f s) :=
  .slot h fun _ _ => .check h fun _ => .completed (h.setRes0 _)

theorem execGfExp_sound (h : ContentSound s) (f : Nat) : EndsSound (execGfExp f s) :=
  .slot h fun _ _ => .check h fun _ => .completed (h.setRes0 _)

theorem execGfLog_sound (h : ContentSound s) (f : Nat) : EndsSound (execGfLog f s) :=
  .slot h fun _ _ => .check h fun _ => .completed (h.setRes0 _)

theorem execGfDiv_sound (h : ContentSound s) (f : Nat) : EndsSound (execGfDiv f s) :=
  .slot h fun hf _ => .check h fun _ => by
    cases gfDiv s.fields[f] s.arg0 s.arg1 with
    | none => exact .raised h
    | some z => exact .completed (h.setRes0 z)

theorem execGfPadd_sound (h : ContentSound s) (f : Nat) : EndsSound (execGfPadd f s) :=
  .slot h fun _ _ => .check h fun ha => .check h fun hb => .check h fun _ => .check h fun _ => by
    rw [lengthOutside_eq_false_iff] at ha hb
    exact .completed (h.writeR (by rw [polyAdd_length, vec_length, vec_length]; omega))

theorem execGfPmul_sound (h : ContentSound s) (f : Nat) : EndsSound (execGfPmul f s) :=
  .slot h fun _ _ => .check h fun _ => .check h fun hb => .check h fun hab => .check h fun _ => .check h fun _ => by
    rw [lengthOutside_eq_false_iff] at hb
    have hne : s.vec .b ≠ [] := by
      rw [← List.length_pos_iff, vec_length]
      omega
    exact .completed (h.writeR (by rw [polyMul_length _ _ _ hne, vec_length, vec_length]; omega))

/-! BCH Decoder (R133 to R139). -/

theorem execBchBuild_sound (h : ContentSound s) (c : Nat) : EndsSound (execBchBuild c s) :=
  .freeSlot h fun hc _ => .check h fun hbad =>
    .completed ⟨h.memory, h.outputR, h.outputQ, h.fieldSlots,
      ContentSound.forall_set h.bchSlots hc fun _ => ⟨Bool.eq_false_of_not_eq_true hbad, rfl⟩, h.rsSlots, h.schedSlots⟩

theorem execBchRepair_sound (h : ContentSound s) : EndsSound (execBchRepair s) :=
  .check h fun _ => .check h fun ha => .check h fun _ =>
    .repair h (by rw [lengthOutside_eq_false_iff] at ha; rw [vec_length]; exact ha.2) ..

theorem badBchOperands_eq_false_iff {poly nbits maxErrors synbits : Nat} :
    badBchOperands poly nbits maxErrors synbits = false ↔
      2 ≤ poly ∧ 1 ≤ nbits ∧ nbits ≤ BCH_MAXN ∧ 1 ≤ maxErrors ∧ maxErrors ≤ 3 ∧ bitlen poly - 1 ≤ synbits ∧
        synbits ≤ BCH_MAXSYN := by
  simp only [badBchOperands, Bool.or_eq_false_iff, decide_eq_false_iff_not]
  omega

theorem execBchLookup_sound (h : ContentSound s) (c : Nat) : EndsSound (execBchLookup c s) :=
  .slot h fun hc hv => .check h fun ha => .check h fun _ => by
    obtain ⟨hbad, -⟩ := h.bchSlots ⟨c, hc⟩ hv
    obtain ⟨-, -, hn, -⟩ := badBchOperands_eq_false_iff.1 hbad
    have hn : s.bch[c].n ≤ 32 := hn
    refine .repair h ?_ ..
    rw [vec_length, not_not.1 ha]
    exact hn.trans (by decide)

theorem execBchSynrd_sound (h : ContentSound s) (c : Nat) : EndsSound (execBchSynrd c s) :=
  .slot h fun hc _ => .check h fun _ => by
    cases synAt s.bch[c].syn s.arg0 with
    | none => exact .completed (((h.setRes0 _).setRes1 _).setRes2 _)
    | some e => exact .completed (((h.setRes0 _).setRes1 _).setRes2 _)

/-! Reed-Solomon codec (R152 to R170). -/

theorem execRsCfg_sound (h : ContentSound s) (r : Nat) : EndsSound (execRsCfg r s) :=
  .freeSlot h fun hr _ => by
    split
    next hf =>
      refine .check h fun hv => .check h fun hbad => .completed ⟨h.memory, h.outputR, h.outputQ, h.fieldSlots, h.bchSlots,
        ContentSound.forall_set h.rsSlots hr fun _ => ?_, h.schedSlots⟩
      have hv : s.fields[s.arg0].valid = true := by simpa using hv
      have hbad := Bool.eq_false_of_not_eq_true hbad
      obtain ⟨-, -, -, -, hgen⟩ := ContentSound.badCodeOperands_eq_false_iff.1 hbad
      have hfit : (BitVec.ofNat 8 s.arg3).toNat = s.arg3 := by
        rw [hgen, BitVec.ofNat_toNat, BitVec.setWidth_eq]
      simp only [hfit]
      exact ⟨hv, hbad, rfl⟩
    next => exact .raised h

theorem execRsGpoly_sound (h : ContentSound s) (r : Nat) : EndsSound (execRsGpoly r s) :=
  .code h fun k _ hk _ => .completed <| h.writeR <| by
    have hk : k.nsym ≤ 32 := hk
    rw [List.length_map, List.length_range]
    exact (Nat.succ_le_succ hk).trans (by decide)

theorem execRsEnc_sound (h : ContentSound s) (r : Nat) : EndsSound (execRsEnc r s) :=
  .code h fun _ _ _ ht => .check h fun ha => .check h fun _ => .completed <| h.writeR <| by
    simp only [Bool.or_eq_true, decide_eq_true_eq] at ha
    rw [rsEncode_length, vec_length]
    simp only [VLEN]
    omega

theorem execRsSynd_sound (h : ContentSound s) (r : Nat) : EndsSound (execRsSynd r s) :=
  .code h fun k _ hk _ => .check h fun _ => .check h fun _ => .completed <| ContentSound.setRes0 (h.writeR <| by
    have hk : k.nsym ≤ 32 := hk
    rw [rsSyndromes_length]
    exact hk.trans (by decide)) _

theorem execRsEloc_sound (h : ContentSound s) (r : Nat) : EndsSound (execRsEloc r s) :=
  .code h fun k t hk _ => .check h fun _ => .check h fun _ => .check h fun hb => .check h fun _ => .check h fun _ =>
    .completed <| ContentSound.setRes0 (h.writeR <| by
      have hk : k.nsym ≤ 32 := hk
      have hloc := rsEloc_length_le t k (s.vec .a) (eras := s.vec .b) s.arg0 (by rw [vec_length]; omega)
      exact hloc.trans ((Nat.succ_le_succ hk).trans (by decide))) _

theorem execRsEpos_sound (h : ContentSound s) (r : Nat) : EndsSound (execRsEpos r s) :=
  .code h fun k t _ ht => .check h fun hn => .check h fun _ => .check h fun _ => by
    rw [lengthOutside_eq_false_iff] at hn
    cases hpos : rsEpos t k (s.vec .a) s.arg0 with
    | none => exact .raised h
    | some pos =>
      have hlen := rsEpos_length_le hpos
      exact .completed (ContentSound.setRes0 (h.writeR (by simp only [VLEN]; omega)) _)

theorem execRsCorr_sound (h : ContentSound s) (r : Nat) : EndsSound (execRsCorr r s) :=
  .code h fun k t _ ht => .check h fun ha => .check h fun _ => .check h fun _ => .check h fun _ => .check h fun _ =>
    .check h fun _ => by
      rw [lengthOutside_eq_false_iff] at ha
      cases hcor : rsCorr t k (s.vec .a) (s.vec .b) (s.vec .c) with
      | none => exact .raised h
      | some out =>
        have hlen := rsCorr_length hcor
        rw [vec_length] at hlen
        exact .completed (h.writeR (by simp only [VLEN]; omega))

theorem execRsDec_sound (h : ContentSound s) (r : Nat) : EndsSound (execRsDec r s) :=
  .code h fun k t _ ht => .check h fun ha => .check h fun _ => .check h fun _ => .check h fun _ => by
    rw [lengthOutside_eq_false_iff] at ha
    cases hd : rsDecode t k (s.vec .a) (s.vec .b) with
    | error c => exact .raised h
    | ok d =>
      obtain ⟨word, count, rfl, hlen, -, -⟩ := rsDecode_ok_word hd
      rw [vec_length] at hlen
      refine .completed (ContentSound.setRes0 (ContentSound.writeQ (h.writeR ?_) ?_) _)
      · rw [splitWord_msg_length]
        simp only [VLEN]
        omega
      · rw [splitWord_par_length (by omega)]
        simp only [VLEN]
        omega

theorem execRsCheck_sound (h : ContentSound s) (r : Nat) : EndsSound (execRsCheck r s) :=
  .code h fun _ _ _ _ => .check h fun _ => .check h fun _ => .check h fun _ => .completed (h.setRes0 _)

theorem badFrame_passed {nsym order p e len : Nat} (hop : ¬ badFrameOperands nsym p e = true)
    (hlen : ¬ badFrameLength order p e len = true) : 1 ≤ p ∧ p + e = nsym ∧ p + 1 ≤ len ∧ len + e ≤ order := by
  simp only [badFrameOperands, badFrameLength, Bool.or_eq_true, decide_eq_true_eq] at hop hlen
  omega

theorem execRsFix_sound (h : ContentSound s) (r : Nat) : EndsSound (execRsFix r s) :=
  .code h fun k t _ ht => .check h fun hop => .check h fun hlen => .check h fun _ => by
    obtain ⟨-, hpe, hpl, hle⟩ := badFrame_passed hop hlen
    cases hd : rsFix t k s.arg1 (s.vec .a) with
    | error c =>
      exact .raised (((ContentSound.writeQ (h.writeR (Nat.zero_le _)) (Nat.zero_le _)).setRes0 _).setRes1 _)
    | ok d =>
      obtain ⟨word, count, rfl, hword, -, -⟩ := rsDecode_ok_word hd
      rw [List.length_append, List.length_replicate, vec_length] at hword
      refine .completed (((ContentSound.writeQ (h.writeR ?_) ?_).setRes0 _).setRes1 _)
      · rw [splitWord_msg_length]
        simp only [VLEN]
        omega
      · rw [List.length_take, splitWord_par_length (by omega)]
        simp only [VLEN]
        omega

/-! Puncture Codec (R191 to R196). -/

theorem execCvEnc_sound (h : ContentSound s) : EndsSound (execCvEnc s) :=
  .check h fun _ => .check h fun ha => .check h fun _ => .completed <| ContentSound.setRes0 (h.writeR <| by
    rw [convEncode_length, vec_length]
    exact Nat.le_of_not_lt ha) _

theorem execPnCfg_sound (h : ContentSound s) (p : Nat) : EndsSound (execPnCfg p s) :=
  .freeSlot h fun hp _ => .check h fun hbad =>
    .completed ⟨h.memory, h.outputR, h.outputQ, h.fieldSlots, h.bchSlots, h.rsSlots,
      ContentSound.forall_set h.schedSlots hp fun _ => Bool.eq_false_of_not_eq_true hbad⟩

theorem execPnPunc_sound (h : ContentSound s) (p : Nat) : EndsSound (execPnPunc p s) :=
  .slot h fun _ _ => .check h fun ha => .check h fun _ => .completed <| h.writeR <| by
    rw [puncture_length, vec_length]
    exact Nat.le_of_not_lt ha

theorem execPnDepunc_sound (h : ContentSound s) (p : Nat) : EndsSound (execPnDepunc p s) :=
  .slot h fun _ _ => .check h fun hL => .check h fun _ => .check h fun _ => .completed <| h.writeR <| by
    rw [depuncture_length]
    exact Nat.le_of_not_lt hL

/-! Burst Framer and housekeeping (R206 to R212, R226, R227). -/

theorem execFrNorm_sound (h : ContentSound s) : EndsSound (execFrNorm s) :=
  .check h fun _ => .check h fun ha => .check h fun _ => .check h fun _ => .completed <| h.writeR <| by
    rw [normalize_length, vec_length]
    exact Nat.le_of_not_lt ha

theorem execFrDeint_sound (h : ContentSound s) : EndsSound (execFrDeint s) :=
  .check h fun hS => .check h fun ha => .check h fun _ => .completed <| ContentSound.setRes0 (h.writeR <| by
    simp only [Bool.or_eq_true, decide_eq_true_eq] at hS
    rw [deinterleave_length _ (by omega), vec_length]
    exact Nat.le_of_not_lt ha) _

/-- What a `BUF.COPY` that passes its operand check copies to and how much (R227). -/
theorem copyOperands_eq_some {src dst offset count : Nat} {x y : BufId}
    (h : copyOperands src dst offset count = some (x, y)) :
    bufOfNumber src = some x ∧ bufOfNumber dst = some y ∧ y.isInput = true ∧ offset ≤ VLEN ∧ count ≤ VLEN := by
  unfold copyOperands at h
  split at h
  next x' y' hx hy =>
    split at h
    next hc =>
      obtain ⟨hin, ho, hcount⟩ := hc
      cases h
      exact ⟨hx, hy, hin, ho, hcount⟩
    next => cases h
  next => cases h

theorem execBufCopy_sound (h : ContentSound s) : EndsSound (execBufCopy s) := by
  unfold execBufCopy
  cases hop : copyOperands s.arg0 s.arg1 s.arg2 s.arg3 with
  | none => exact .raised h
  | some bufs =>
    obtain ⟨src, dst⟩ := bufs
    obtain ⟨-, -, hin, -, hcount⟩ := copyOperands_eq_some hop
    have hlen : (slice s src s.arg2 s.arg3).length ≤ VLEN := by simpa [slice] using hcount
    have hwf := (memory_wf_iff _).1 (copyInto_wf (bid := dst) h.memory hlen) dst
    rw [copyInto, buf_setBuf_same] at hwf
    exact .check h fun _ => .check h fun _ => .completed (h.setInput hin hwf)

/-- Every command ends over a state with sound contents. -/
theorem exec_endsSound (h : ContentSound s) (i : Instr) : EndsSound (exec i s) := by
  cases i with
  | sysNop => exact .completed h
  | gfBuild f => exact execGfBuild_sound h f
  | gfAdd f => exact execGfAdd_sound h f
  | gfMul f => exact execGfMul_sound h f
  | gfExp f => exact execGfExp_sound h f
  | gfLog f => exact execGfLog_sound h f
  | gfDiv f => exact execGfDiv_sound h f
  | gfPadd f => exact execGfPadd_sound h f
  | gfPmul f => exact execGfPmul_sound h f
  | bchBuild c => exact execBchBuild_sound h c
  | bchDiv => exact .check h fun _ => .check h fun _ => .check h fun _ => .completed (h.setRes0 _)
  | bchRepair => exact execBchRepair_sound h
  | bchLookup c => exact execBchLookup_sound h c
  | bchSynrd c => exact execBchSynrd_sound h c
  | rsCfg r => exact execRsCfg_sound h r
  | rsGpoly r => exact execRsGpoly_sound h r
  | rsEnc r => exact execRsEnc_sound h r
  | rsSynd r => exact execRsSynd_sound h r
  | rsEloc r => exact execRsEloc_sound h r
  | rsEpos r => exact execRsEpos_sound h r
  | rsCorr r => exact execRsCorr_sound h r
  | rsDec r => exact execRsDec_sound h r
  | rsCheck r => exact execRsCheck_sound h r
  | rsFix r => exact execRsFix_sound h r
  | cvEnc => exact execCvEnc_sound h
  | pnCfg p => exact execPnCfg_sound h p
  | pnPunc p => exact execPnPunc_sound h p
  | pnDepunc p => exact execPnDepunc_sound h p
  | frNorm => exact execFrNorm_sound h
  | frDeint => exact execFrDeint_sound h
  | frCsum16 | frRev8 => exact .check h fun _ => .completed (h.setRes0 _)
  | bufCopy => exact execBufCopy_sound h

/-! ### What an access answers -/

/-- An accepted command (R27) keeps the state sound. -/
theorem State.Sound.of_exec {t : State} {i : Instr} (h : s.Sound) (hdone : s.status.done = true)
    (he : exec i s = .next t) : t.Sound := by
  obtain ⟨k, u, hk, hu, hr⟩ := (exec_ends i s s.evlog).answer
  obtain rfl : t = endWith k u := raise_eq_next.1 (hr ▸ he)
  obtain ⟨k', u', hu', hr'⟩ := exec_endsSound h.content i
  have hcontent : ContentSound (endWith k u) := by
    have heq : endWith k u = endWith k' u' := raise_eq_next.1 (hr' ▸ he)
    exact heq ▸ hu'.endWith k'
  have hlog : LogSound u :=
    ⟨hu.evlog ▸ h.logBits, by rw [hu.status, hu.evlog]; exact h.haltedLogged, hu.status ▸ h.neverParse, fun hd => by
      rw [hu.status, hdone] at hd
      cases hd⟩
  exact State.sound_iff.2 ⟨hcontent, hlog.endWith hk (by rw [hu.status, hdone])⟩

theorem State.Sound.accept (h : s.Sound) (w : Word) : (accept w s).Sound :=
  State.sound_iff.2 ⟨h.content.of_eq rfl, h.log.accept w⟩

theorem State.Sound.of_writeCmd {t : State} {w : Word} (h : s.Sound) (he : writeCmd w s = .next t) : t.Sound := by
  unfold writeCmd runCommand at he
  split at he
  · cases he
    exact h
  · split at he
    · exact (h.accept w).of_exec rfl he
    · obtain rfl := raise_eq_next.1 he
      exact State.sound_iff.2 ⟨(h.accept w).content.endWith _, (h.accept w).log.endWith (by decide) rfl⟩

/-- The state after reset is sound, whatever the queue, the last read and the counter of free values. -/
theorem sound_reset_with (seed fresh : Nat) (pending : List HostAccess) (busData : Option Word) :
    ({ State.reset with
        a := Buffer.empty seed, b := Buffer.empty seed, c := Buffer.empty seed, r := Buffer.empty seed
        q := Buffer.empty seed, pending := pending, busData := busData, fresh := fresh } : State).Sound where
  memory := by refine ⟨?_, ?_, ?_, ?_, ?_⟩ <;> exact ⟨List.Pairwise.nil, fun c hc => nomatch hc⟩
  outputR := ⟨Nat.zero_le _, rfl⟩
  outputQ := ⟨Nat.zero_le _, rfl⟩
  fieldSlots f hv := by simp [State.reset, FieldSlot.empty] at hv
  bchSlots c hv := by simp [State.reset, BchSlot.empty] at hv
  rsSlots r hv := by simp [State.reset, RsSlot.empty] at hv
  schedSlots p hv := by simp [State.reset, SchedSlot.empty] at hv
  logBits := (by decide : (0 : Word).getLsbD 0 = false ∧ (0 : Word).getLsbD 1 = false ∧ (0 : Word).toNat < 2 ^ 12)
  haltedLogged := (by decide : false = (0 : Word).getLsbD 7)
  neverParse := (by decide : Cond.ok ≠ .parseError)
  beforeFirst _ := ⟨rfl, rfl, rfl, rfl⟩

/-- Settles O2. -/
theorem resetIsSound : Obligations.ResetIsSound := sound_reset_with 0 1 [] none

/-- An access that changes registers only, and not the log or the status. -/
theorem State.Sound.of_registers {t : State} (h : s.Sound)
    (ht : t = { s with arg := t.arg, res := t.res, pending := t.pending, busData := t.busData, fresh := t.fresh }) :
    t.Sound := by
  rw [ht]
  exact State.sound_iff.2 ⟨h.content.of_eq rfl, h.logBits, h.haltedLogged, h.neverParse, h.beforeFirst⟩

theorem State.Sound.setInput {bid : BufId} {x : Buffer} (h : s.Sound) (hb : bid.isInput = true) (hx : x.wf) :
    (s.setBuf bid x).Sound := by
  refine State.sound_iff.2 ⟨h.content.setInput hb hx, ?_⟩
  cases bid <;> exact ⟨h.logBits, h.haltedLogged, h.neverParse, h.beforeFirst⟩

theorem State.Sound.of_writeTarget {t : State} {v : Word} {target : Target} (h : s.Sound)
    (hcell : ∀ bid i, target = .cell bid i → i < VLEN) (he : writeTarget v s target = .next t) : t.Sound := by
  cases target with
  | cmd => exact h.of_writeCmd he
  | ctrl =>
    cases he
    unfold writeCtrl
    split
    · exact sound_reset_with ..
    · exact h
  | evlog =>
    cases he
    exact State.sound_iff.2 ⟨h.content.of_eq rfl, h.log.clear v⟩
  | len bid =>
    cases he
    split
    next hb => exact h.setInput hb (h.content.wf_buf bid)
    next => exact h
  | cell bid i =>
    cases he
    split
    next hb =>
      have hwf := (memory_wf_iff _).1 (writeCell_wf (bid := bid) (v := v.setWidth 16) h.memory (hcell bid i rfl)) bid
      rw [writeCell, buf_setBuf_same] at hwf
      exact h.setInput hb hwf
    next => exact h
  | id | status | cmdseq | lastcmd | arg i | res i =>
    cases he
    exact h.of_registers rfl

/-- A cell that an index names is one of its buffer (R60). -/
theorem lt_of_targetOf_cell {idx : Nat} {bid : BufId} {i : Nat} (h : targetOf idx = some (.cell bid i)) : i < VLEN := by
  have hmod : idx % VLEN < VLEN := Nat.mod_lt _ (by decide)
  unfold targetOf at h
  split at h
  · unfold registerAt at h
    split at h <;> cases h
  · unfold cellTarget at h
    split at h <;> cases h <;> exact hmod

theorem State.Sound.of_perform {t : State} {x : HostAccess} (h : s.Sound) (he : perform x s = .next t) : t.Sound := by
  cases x with
  | reset =>
    cases he
    exact sound_reset_with ..
  | read idx =>
    simp only [perform] at he
    split at he
    · cases he
      exact h.of_registers rfl
    · cases he
  | write idx v =>
    simp only [perform] at he
    split at he
    next target htarget =>
      exact h.of_writeTarget (fun bid i hcell => lt_of_targetOf_cell (hcell ▸ htarget)) he
    next => cases he

/-- Settles O1: an idle step changes nothing, another performs the oldest access. -/
theorem stepKeepsSound : Obligations.StepKeepsSound := by
  intro s t h he
  cases hp : s.pending with
  | nil =>
    rw [step_of_idle hp] at he
    cases he
    exact h
  | cons x rest =>
    rw [step_of_pending hp] at he
    exact (h.of_registers (t := { s with pending := rest }) rfl).of_perform he

end Sys2Proof.Machine
end

section
/-! PROOFS. The checks before an operation (30_encoding.md R86): how a command goes through them one by one, and what turns
each command away. -/

namespace Sys2Proof.Machine

open Sys2Proof.Config

/-! ### One check after another -/

section Checks

variable {c : Prop} [Decidable c] {k : Cond} {s : State} {r x : Result}

/-- A check that fails ends the command. -/
theorem check_failed (h : c) : (if c then raise k s else r) = .next (endWith k s) := if_pos h

/-- A check that passes leaves the rest of the command. -/
theorem check_passed (h : ¬ c) (hr : r = x) : (if c then raise k s else r) = x := (if_neg h).trans hr

/-- A condition that this check or a later one raises. -/
theorem check_raises (hr : ¬ c → r = .next (endWith k s)) : (if c then raise k s else r) = .next (endWith k s) := by
  split
  next => rfl
  next h => exact hr h

end Checks

/-! ### The slot (steps 3 and 4) -/

section Slots

variable {α : Type} {n : Nat} {slots : Vector α n} {valid : α → Bool} {i : Nat} {s : State} {x : Result}

theorem withBuilt_passed {go : α → Result} (hi : i < n) (hv : valid slots[i] = true) (h : go slots[i] = x) :
    withBuilt slots valid i s go = x :=
  (withBuilt_valid hi hv).trans h

theorem withUnbuilt_passed {go : i < n → Result} (hi : i < n) (hv : valid slots[i] = false) (h : go hi = x) :
    withUnbuilt slots valid i s go = x :=
  (withUnbuilt_invalid hi hv).trans h

theorem withCode_passed {r : Nat} {go : RsSlot → FieldSlot → Result} (hr : r < NRS) (hv : s.rs[r].valid = true)
    (h : go s.rs[r] s.fields[s.rs[r].field] = x) : withCode r s go = x :=
  withBuilt_passed hr hv h

/-- Steps 3 and 4 of a command that uses slot `i`. -/
theorem withBuilt_checks {go : α → Result} (s : State) :
    (n ≤ i → withBuilt slots valid i s go = .next (endWith .operandRange s)) ∧
      (i < n → validBit valid slots i = false → withBuilt slots valid i s go = .next (endWith .tableNotBuilt s)) := by
  unfold withBuilt validBit
  refine ⟨fun h => dif_neg (Nat.not_lt_of_le h), fun h hv => ?_⟩
  rw [dif_pos h] at hv ⊢
  exact if_neg (Bool.not_eq_true _ ▸ hv)

/-- Steps 3 and 4 of a command that builds slot `i`. -/
theorem withUnbuilt_checks {go : i < n → Result} (s : State) :
    (n ≤ i → withUnbuilt slots valid i s go = .next (endWith .operandRange s)) ∧
      (i < n → validBit valid slots i = true → withUnbuilt slots valid i s go = .next (endWith .configError s)) := by
  unfold withUnbuilt validBit
  refine ⟨fun h => dif_neg (Nat.not_lt_of_le h), fun h hv => ?_⟩
  rw [dif_pos h] at hv ⊢
  exact if_pos hv

end Slots

/-- What steps 3 and 4 turn away of a command, a build or not, that answers `r` in state `s`: its selector is `n`, and of
its kind there are `count` slots, the `n`-th of which is valid or not (R86, R245, R252). -/
def SlotChecked (r : Result) (isBuild : Bool) (s : State) (count n : Nat) (isValid : Bool) : Prop :=
  (count ≤ n → r = .next (endWith .operandRange s)) ∧
    (n < count → isBuild = true → isValid = true → r = .next (endWith .configError s)) ∧
    (n < count → isBuild = false → isValid = false → r = .next (endWith .tableNotBuilt s))

theorem slotChecked_withBuilt {α : Type} {count n : Nat} {slots : Vector α count} {valid : α → Bool} {s : State}
    {go : α → Result} : SlotChecked (withBuilt slots valid n s go) false s count n (validBit valid slots n) := by
  have hc := withBuilt_checks (slots := slots) (valid := valid) (i := n) (go := go) s
  exact ⟨hc.1, fun _ hno => Bool.noConfusion hno, fun hn _ => hc.2 hn⟩

theorem slotChecked_withUnbuilt {α : Type} {count n : Nat} {slots : Vector α count} {valid : α → Bool} {s : State}
    {go : n < count → Result} :
    SlotChecked (withUnbuilt slots valid n s go) true s count n (validBit valid slots n) := by
  have hc := withUnbuilt_checks (slots := slots) (valid := valid) (go := go) s
  exact ⟨hc.1, fun hn _ => hc.2 hn, fun _ hno => Bool.noConfusion hno⟩

theorem slotChecked_withCode {r : Nat} {s : State} {go : RsSlot → FieldSlot → Result} :
    SlotChecked (withCode r s go) false s NRS r (s.slotValid .rs r) :=
  slotChecked_withBuilt

/-- Steps 3 and 4 of every command with a selector. -/
theorem exec_slotChecked (s : State) {i : Instr} {kind : SlotKind} {n : Nat} (hkind : i.slotKind = some kind)
    (hsel : i.selector = some n) : SlotChecked (exec i s) i.isBuild s kind.count n (s.slotValid kind n) := by
  cases i with
  | sysNop | bchDiv | bchRepair | cvEnc | frNorm | frDeint | frCsum16 | frRev8 | bufCopy => cases hkind
  | gfBuild _ | bchBuild _ | rsCfg _ | pnCfg _ =>
    cases hkind
    cases hsel
    exact slotChecked_withUnbuilt
  | gfAdd _ | gfMul _ | gfDiv _ | gfExp _ | gfLog _ | gfPadd _ | gfPmul _ | bchLookup _ | bchSynrd _ | pnPunc _
  | pnDepunc _ =>
    cases hkind
    cases hsel
    dsimp only [exec]
    exact slotChecked_withBuilt
  | rsGpoly _ | rsEnc _ | rsSynd _ | rsEloc _ | rsEpos _ | rsCorr _ | rsDec _ | rsCheck _ | rsFix _ =>
    cases hkind
    cases hsel
    dsimp only [exec]
    exact slotChecked_withCode

/-- `RS.CFG` over a field that is not valid (R152). -/
theorem execRsCfg_field_not_valid {s : State} {r : Nat} (hr : r < NRS) (hf : s.slotValid .field s.arg0 = false) :
    execRsCfg r s = .next (endWith .configError s) := by
  cases hv : s.rs[r].valid with
  | true => exact (withUnbuilt_checks s).2 hr (by rw [validBit, dif_pos hr, hv])
  | false =>
    refine withUnbuilt_passed hr hv ?_
    by_cases h : s.arg0 < NF
    · rw [dif_pos h]
      have hno : s.fields[s.arg0].valid = false := by simpa only [State.slotValid, dif_pos h] using hf
      exact check_failed (by rw [hno]; rfl)
    · exact dif_neg h

/-- Settles O19. -/
theorem selectorAndSlotChecks : Obligations.SelectorAndSlotChecks :=
  ⟨fun s _ _ _ hkind hsel => exec_slotChecked s hkind hsel, fun _ _ hr hf => execRsCfg_field_not_valid hr hf⟩

/-! ### The conditions of the checks (steps 5 to 7) -/

theorem notElements_iff {t : FieldSlot} {x y : Nat} : notElements t x y = true ↔ 2 ^ t.m ≤ x ∨ 2 ^ t.m ≤ y := by
  rw [notElements, Bool.or_eq_true, decide_eq_true_eq, decide_eq_true_eq]

theorem lengthOutside_iff {lo hi n : Nat} : lengthOutside lo hi n = true ↔ n < lo ∨ hi < n := by
  rw [lengthOutside, Bool.or_eq_true, decide_eq_true_eq, decide_eq_true_eq]

theorem someCellFrom_iff {bound : Nat} {xs : List Nat} : someCellFrom bound xs = true ↔ ∃ x ∈ xs, bound ≤ x := by
  simp only [someCellFrom, List.any_eq_true, decide_eq_true_eq]

theorem someCellNotBit_iff {xs : List Nat} : someCellNotBit xs = true ↔ ∃ x ∈ xs, 2 ≤ x := someCellFrom_iff

theorem not_someCellFrom {bound : Nat} {xs : List Nat} (h : ∀ x ∈ xs, x < bound) : ¬ someCellFrom bound xs = true := by
  rw [someCellFrom_iff]
  rintro ⟨x, hx, hle⟩
  exact Nat.not_lt_of_le hle (h x hx)

theorem not_someCellNotBit {xs : List Nat} (h : ∀ x ∈ xs, x < 2) : ¬ someCellNotBit xs = true := not_someCellFrom h

theorem someCellFrom_or_of_append {bound : Nat} {xs ys : List Nat} (h : ∃ x ∈ xs ++ ys, bound ≤ x) :
    someCellFrom bound xs = true ∨ someCellFrom bound ys = true := by
  obtain ⟨x, hx, hle⟩ := h
  rw [someCellFrom_iff, someCellFrom_iff]
  obtain hx | hx := List.mem_append.1 hx
  · exact .inl ⟨x, hx, hle⟩
  · exact .inr ⟨x, hx, hle⟩

theorem badEncoderOperands_iff {tapsA tapsB init K : Nat} :
    badEncoderOperands tapsA tapsB init K = true ↔
      K < 1 ∨ CV_MAXK < K ∨ 2 ^ K ≤ tapsA ∨ 2 ^ K ≤ tapsB ∨ 2 ^ K ≤ init := by
  unfold badEncoderOperands
  split
  next h =>
    simp only [Bool.or_eq_true, decide_eq_true_eq] at h
    simp only [true_iff]
    omega
  next h =>
    simp only [Bool.or_eq_true, decide_eq_true_eq] at h
    simp only [Bool.or_eq_true, decide_eq_true_eq]
    omega

theorem badSchedule_iff {period pattern : Nat} :
    badSchedule period pattern = true ↔ period < 1 ∨ MAXPERIOD < period ∨ 2 ^ period ≤ pattern := by
  unfold badSchedule
  split
  next h =>
    simp only [Bool.or_eq_true, decide_eq_true_eq] at h
    simp only [true_iff]
    omega
  next h =>
    simp only [Bool.or_eq_true, decide_eq_true_eq] at h
    simp only [decide_eq_true_eq]
    omega

theorem badBchOperands_iff {poly nbits maxErrors synbits : Nat} :
    badBchOperands poly nbits maxErrors synbits = true ↔
      poly < 2 ∨ nbits < 1 ∨ BCH_MAXN < nbits ∨ maxErrors < 1 ∨ 3 < maxErrors ∨ synbits < bitlen poly - 1 ∨
        BCH_MAXSYN < synbits := by
  simp only [badBchOperands, Bool.or_eq_true, decide_eq_true_eq, or_assoc]

theorem badCodeOperands_iff {t : FieldSlot} {nsym fcr gen : Nat} :
    badCodeOperands t nsym fcr gen = true ↔
      nsym < 1 ∨ MAXNSYM < nsym ∨ t.order - 1 < nsym ∨ t.order - 1 < fcr ∨ gen ≠ t.gen.toNat := by
  simp only [badCodeOperands, Bool.or_eq_true, decide_eq_true_eq]
  omega

theorem badFrameOperands_iff {nsym p e : Nat} : badFrameOperands nsym p e = true ↔ p = 0 ∨ p + e ≠ nsym := by
  simp only [badFrameOperands, Bool.or_eq_true, decide_eq_true_eq]
  omega

theorem badFrameLength_iff {order p e len : Nat} :
    badFrameLength order p e len = true ↔ len < p + 1 ∨ order < len + e := by
  simp only [badFrameLength, Bool.or_eq_true, decide_eq_true_eq]

/-- Only a `BUF.COPY` with both buffers named, into an input buffer, has operands in range (R227). -/
theorem copyOperands_eq_none {src dst offset count : Nat} (h : 4 < src ∨ 2 < dst ∨ VLEN < offset ∨ VLEN < count) :
    copyOperands src dst offset count = none := by
  have hnumber : ∀ n bid, bufOfNumber n = some bid → n = bid.number ∧ (bid.isInput = true → n ≤ 2) := by
    intro n bid hn
    unfold bufOfNumber at hn
    split at hn <;> cases hn <;> simp [BufId.number, BufId.isInput]
  cases hop : copyOperands src dst offset count with
  | none => rfl
  | some bufs =>
    obtain ⟨x, y⟩ := bufs
    obtain ⟨hx, hy, hin, ho, hc⟩ := copyOperands_eq_some hop
    have hsrc := (hnumber src x hx).1
    have hx4 : x.number ≤ 4 := by cases x <;> decide
    have hdst := (hnumber dst y hy).2 hin
    omega

theorem copyOperands_of_inRange {src dst offset count : Nat} {x y : BufId} (hx : bufOfNumber src = some x)
    (hy : bufOfNumber dst = some y) (hin : y.isInput = true) (ho : offset ≤ VLEN) (hc : count ≤ VLEN) :
    copyOperands src dst offset count = some (x, y) := by
  rw [copyOperands, hx, hy]
  exact if_pos ⟨hin, ho, hc⟩

/-- The numbers of the input buffers (R227). -/
theorem bufOfNumber_of_le_two {n : Nat} (h : n ≤ 2) : ∃ bid, bufOfNumber n = some bid ∧ bid.isInput = true := by
  interval_cases n
  · exact ⟨.a, rfl, rfl⟩
  · exact ⟨.b, rfl, rfl⟩
  · exact ⟨.c, rfl, rfl⟩

/-! ### Field Engine (R108 to R112, R115, R116) -/

section FieldEngine

variable {s : State} {f : Nat} {hf : f < NF} (hv : s.fields[f].valid = true)

include hv

/-- What an operand that is no element turns away. -/
theorem exec_notElements (h : 2 ^ s.fields[f].m ≤ s.arg0 ∨ 2 ^ s.fields[f].m ≤ s.arg1) :
    execGfAdd f s = .next (endWith .operandRange s) ∧ execGfMul f s = .next (endWith .operandRange s) ∧
      execGfDiv f s = .next (endWith .operandRange s) :=
  ⟨withBuilt_passed hf hv (check_failed (notElements_iff.2 h)),
    withBuilt_passed hf hv (check_failed (notElements_iff.2 h)),
    withBuilt_passed hf hv (check_failed (notElements_iff.2 h))⟩

theorem execGfExp_range (h : 2 * (2 ^ s.fields[f].m - 1) - 1 < s.arg0) :
    execGfExp f s = .next (endWith .operandRange s) :=
  withBuilt_passed hf hv (check_failed h)

theorem execGfLog_range (h : s.arg0 = 0 ∨ 2 ^ s.fields[f].m ≤ s.arg0) :
    execGfLog f s = .next (endWith .operandRange s) :=
  withBuilt_passed hf hv <| check_failed <| by
    simp only [Bool.or_eq_true, decide_eq_true_eq]
    omega

theorem exec_vector_length (h : s.lenOf .a = 0 ∨ VLEN < s.lenOf .a ∨ s.lenOf .b = 0 ∨ VLEN < s.lenOf .b) :
    execGfPadd f s = .next (endWith .lengthError s) ∧ execGfPmul f s = .next (endWith .lengthError s) := by
  have hlen : ¬ lengthOutside 1 VLEN (s.lenOf .a) = true → lengthOutside 1 VLEN (s.lenOf .b) = true := fun ha => by
    rw [lengthOutside_iff] at ha ⊢
    omega
  exact ⟨withBuilt_passed hf hv (check_raises fun ha => check_failed (hlen ha)),
    withBuilt_passed hf hv (check_raises fun ha => check_failed (hlen ha))⟩

end FieldEngine

/-- Settles O20. -/
theorem fieldOperandChecks : Obligations.FieldOperandChecks := by
  intro s f hf hv m
  refine ⟨exec_notElements hv, execGfExp_range hv, execGfLog_range hv, exec_vector_length hv,
    fun ha ha' hb hb' => ⟨fun hab => ?product, fun hcell => ⟨?sum, fun hab => ?factors⟩⟩⟩
  all_goals
    have pa : ¬ lengthOutside 1 VLEN (s.lenOf .a) = true := lengthOutside_eq_false_iff.2 ⟨ha, ha'⟩
    have pb : ¬ lengthOutside 1 VLEN (s.lenOf .b) = true := lengthOutside_eq_false_iff.2 ⟨hb, hb'⟩
    dsimp only [exec]
    refine withBuilt_passed hf hv (check_passed pa (check_passed pb ?_))
  case product => exact check_failed hab
  case sum => exact check_raises fun hno => check_failed ((someCellFrom_or_of_append hcell).resolve_left hno)
  case factors =>
    exact check_passed (Nat.not_lt_of_le hab)
      (check_raises fun hno => check_failed ((someCellFrom_or_of_append hcell).resolve_left hno))

/-! ### BCH decoder (R133, R135, R136, R138, R139) -/

/-- Settles O21. -/
theorem bchOperandChecks : Obligations.BchOperandChecks := by
  refine ⟨fun s c hc hv hbad => ?build, fun s i hi => ?words, fun s c hc hv => ⟨fun hlen => ?length, fun hlen hbit => ?bits,
    fun hx => ?synrd⟩⟩
  case build => exact withUnbuilt_passed hc hv (check_failed (badBchOperands_iff.2 hbad))
  case words =>
    have hrange : s.arg0 = 0 → s.arg0 < 1 := fun h => by omega
    have hlen : s.lenOf .a = 0 ∨ VLEN < s.lenOf .a → lengthOutside 1 VLEN (s.lenOf .a) = true := fun h => by
      rw [lengthOutside_iff]
      omega
    obtain rfl | rfl := hi
    all_goals
      exact ⟨fun h => check_failed (hrange h), fun h => ⟨fun hl => check_passed (Nat.not_lt_of_le h) (check_failed (hlen hl)),
        fun hlo hhi hbit => check_passed (Nat.not_lt_of_le h)
          (check_passed (lengthOutside_eq_false_iff.2 ⟨hlo, hhi⟩) (check_failed (someCellNotBit_iff.2 hbit)))⟩⟩
  all_goals dsimp only [exec]
  case length => exact withBuilt_passed hc hv (check_failed hlen)
  case bits => exact withBuilt_passed hc hv (check_passed (not_not_intro hlen) (check_failed (someCellNotBit_iff.2 hbit)))
  case synrd => exact withBuilt_passed hc hv (check_failed hx)

/-! ### Reed-Solomon codec (R152 to R170) -/

/-- `RS.CFG` with an operand out of range (R152). -/
theorem execRsCfg_range {s : State} {r : Nat} (hr : r < NRS) (hf : s.arg0 < NF) (hv : s.rs[r].valid = false)
    (hfv : s.fields[s.arg0].valid = true)
    (h : s.arg1 < 1 ∨ MAXNSYM < s.arg1 ∨ s.fields[s.arg0].order - 1 < s.arg1 ∨ s.fields[s.arg0].order - 1 < s.arg2 ∨
      s.arg3 ≠ s.fields[s.arg0].gen.toNat) : execRsCfg r s = .next (endWith .configError s) := by
  refine withUnbuilt_passed hr hv ((dif_pos hf).trans (check_passed ?_ (check_failed (badCodeOperands_iff.2 h))))
  simp [hfv]

section Codes

variable {s : State} {r : Nat} {hr : r < NRS} (hv : s.rs[r].valid = true)

include hv

theorem execRsEnc_checks :
    (s.lenOf .a = 0 ∨ s.fields[s.rs[r].field].order < s.lenOf .a + s.rs[r].nsym →
      execRsEnc r s = .next (endWith .lengthError s)) ∧
    (1 ≤ s.lenOf .a → s.lenOf .a + s.rs[r].nsym ≤ s.fields[s.rs[r].field].order →
      (∃ x ∈ s.vec .a, 2 ^ s.fields[s.rs[r].field].m ≤ x) → execRsEnc r s = .next (endWith .operandRange s)) := by
  refine ⟨fun h => withCode_passed hr hv (check_failed ?_), fun hlo hhi hx =>
    withCode_passed hr hv (check_passed ?_ (check_failed (someCellFrom_iff.2 hx)))⟩
  all_goals
    simp only [Bool.or_eq_true, decide_eq_true_eq]
    omega

theorem execRsSynd_checks :
    (s.lenOf .a = 0 ∨ s.fields[s.rs[r].field].order < s.lenOf .a →
      execRsSynd r s = .next (endWith .lengthError s)) ∧
    (1 ≤ s.lenOf .a → s.lenOf .a ≤ s.fields[s.rs[r].field].order →
      (∃ x ∈ s.vec .a, 2 ^ s.fields[s.rs[r].field].m ≤ x) → execRsSynd r s = .next (endWith .operandRange s)) :=
  ⟨fun h => withCode_passed hr hv (check_failed (lengthOutside_iff.2 (by omega))), fun hlo hhi hx =>
    withCode_passed hr hv (check_passed (lengthOutside_eq_false_iff.2 ⟨hlo, hhi⟩) (check_failed (someCellFrom_iff.2 hx)))⟩

theorem execRsCorr_checks :
    (s.lenOf .a = 0 ∨ s.fields[s.rs[r].field].order < s.lenOf .a →
      execRsCorr r s = .next (endWith .lengthError s)) ∧
    (1 ≤ s.lenOf .a → s.lenOf .a ≤ s.fields[s.rs[r].field].order →
      (s.lenOf .b ≠ s.rs[r].nsym ∨ s.rs[r].nsym < s.lenOf .c → execRsCorr r s = .next (endWith .lengthError s)) ∧
      (s.lenOf .b = s.rs[r].nsym → s.lenOf .c ≤ s.rs[r].nsym →
        ((∃ x ∈ s.vec .a, 2 ^ s.fields[s.rs[r].field].m ≤ x) ∨
          (∃ x ∈ s.vec .b, 2 ^ s.fields[s.rs[r].field].m ≤ x) ∨ ∃ x ∈ s.vec .c, s.lenOf .a ≤ x) →
        execRsCorr r s = .next (endWith .operandRange s))) := by
  refine ⟨fun h => withCode_passed hr hv (check_failed (lengthOutside_iff.2 (by omega))), fun hlo hhi =>
    ⟨fun h => ?lengths, fun hb hc hx => ?cells⟩⟩
  case lengths =>
    exact withCode_passed hr hv (check_passed (lengthOutside_eq_false_iff.2 ⟨hlo, hhi⟩)
      (check_raises fun hb => check_failed (h.resolve_left hb)))
  case cells =>
    refine withCode_passed hr hv (check_passed (lengthOutside_eq_false_iff.2 ⟨hlo, hhi⟩)
      (check_passed (not_not_intro hb) (check_passed (Nat.not_lt_of_le hc) ?_)))
    simp only [← someCellFrom_iff] at hx
    exact check_raises fun ha => check_raises fun hb => check_failed ((hx.resolve_left ha).resolve_left hb)

theorem execRsEloc_checks :
    (s.arg0 = 0 ∨ s.fields[s.rs[r].field].order < s.arg0 → execRsEloc r s = .next (endWith .operandRange s)) ∧
    (1 ≤ s.arg0 → s.arg0 ≤ s.fields[s.rs[r].field].order →
      (s.lenOf .a ≠ s.rs[r].nsym ∨ s.rs[r].nsym < s.lenOf .b → execRsEloc r s = .next (endWith .lengthError s)) ∧
      (s.lenOf .a = s.rs[r].nsym → s.lenOf .b ≤ s.rs[r].nsym →
        ((∃ x ∈ s.vec .a, 2 ^ s.fields[s.rs[r].field].m ≤ x) ∨ ∃ x ∈ s.vec .b, s.arg0 ≤ x) →
        execRsEloc r s = .next (endWith .operandRange s))) := by
  refine ⟨fun h => withCode_passed hr hv (check_failed (lengthOutside_iff.2 (by omega))), fun hlo hhi =>
    ⟨fun h => ?lengths, fun ha hb hx => ?cells⟩⟩
  case lengths =>
    exact withCode_passed hr hv (check_passed (lengthOutside_eq_false_iff.2 ⟨hlo, hhi⟩)
      (check_raises fun hb => check_failed (h.resolve_left hb)))
  case cells =>
    refine withCode_passed hr hv (check_passed (lengthOutside_eq_false_iff.2 ⟨hlo, hhi⟩)
      (check_passed (not_not_intro ha) (check_passed (Nat.not_lt_of_le hb) ?_)))
    simp only [← someCellFrom_iff] at hx
    exact check_raises fun ha => check_failed (hx.resolve_left ha)

theorem execRsEpos_checks :
    (s.arg0 = 0 ∨ s.fields[s.rs[r].field].order < s.arg0 → execRsEpos r s = .next (endWith .operandRange s)) ∧
    (1 ≤ s.arg0 → s.arg0 ≤ s.fields[s.rs[r].field].order →
      (s.lenOf .a = 0 ∨ VLEN < s.lenOf .a → execRsEpos r s = .next (endWith .lengthError s)) ∧
      (1 ≤ s.lenOf .a → s.lenOf .a ≤ VLEN → (∃ x ∈ s.vec .a, 2 ^ s.fields[s.rs[r].field].m ≤ x) →
        execRsEpos r s = .next (endWith .operandRange s))) :=
  ⟨fun h => withCode_passed hr hv (check_failed (lengthOutside_iff.2 (by omega))), fun hlo hhi =>
    ⟨fun h => withCode_passed hr hv (check_passed (lengthOutside_eq_false_iff.2 ⟨hlo, hhi⟩)
        (check_failed (lengthOutside_iff.2 (by omega)))),
      fun hlo' hhi' hx => withCode_passed hr hv (check_passed (lengthOutside_eq_false_iff.2 ⟨hlo, hhi⟩)
        (check_passed (lengthOutside_eq_false_iff.2 ⟨hlo', hhi'⟩) (check_failed (someCellFrom_iff.2 hx))))⟩⟩

theorem execRsDec_checks :
    (s.lenOf .a ≤ s.rs[r].nsym ∨ s.fields[s.rs[r].field].order < s.lenOf .a ∨ VLEN < s.lenOf .b →
      execRsDec r s = .next (endWith .lengthError s)) ∧
    (s.rs[r].nsym + 1 ≤ s.lenOf .a → s.lenOf .a ≤ s.fields[s.rs[r].field].order → s.lenOf .b ≤ VLEN →
      ((∃ x ∈ s.vec .a, 2 ^ s.fields[s.rs[r].field].m ≤ x) ∨ ∃ x ∈ s.vec .b, s.lenOf .a ≤ x) →
      execRsDec r s = .next (endWith .operandRange s)) := by
  refine ⟨fun h => withCode_passed hr hv (check_raises fun ha => check_failed ?_), fun hlo hhi hb hx => ?cells⟩
  · rw [lengthOutside_eq_false_iff] at ha
    omega
  case cells =>
    refine withCode_passed hr hv (check_passed (lengthOutside_eq_false_iff.2 ⟨hlo, hhi⟩)
      (check_passed (Nat.not_lt_of_le hb) ?_))
    simp only [← someCellFrom_iff] at hx
    exact check_raises fun ha => check_failed (hx.resolve_left ha)

/-- What `RS.CHECK` and `RS.FIX` check (R169, R170). -/
def FrameChecked (k : RsSlot) (t : FieldSlot) (s : State) (x : Result) : Prop :=
  (badFrameOperands k.nsym s.arg0 s.arg1 = true → x = .next (endWith .operandRange s)) ∧
    (¬ badFrameOperands k.nsym s.arg0 s.arg1 = true →
      (badFrameLength t.order s.arg0 s.arg1 (s.lenOf .a) = true → x = .next (endWith .lengthError s)) ∧
      (¬ badFrameLength t.order s.arg0 s.arg1 (s.lenOf .a) = true →
        (∃ x ∈ s.vec .a, 2 ^ t.m ≤ x) → x = .next (endWith .operandRange s)))

theorem execRsCheck_checks : FrameChecked s.rs[r] s.fields[s.rs[r].field] s (execRsCheck r s) :=
  ⟨fun h => withCode_passed hr hv (check_failed h), fun h =>
    ⟨fun hl => withCode_passed hr hv (check_passed h (check_failed hl)), fun hl hx =>
      withCode_passed hr hv (check_passed h (check_passed hl (check_failed (someCellFrom_iff.2 hx))))⟩⟩

theorem execRsFix_checks : FrameChecked s.rs[r] s.fields[s.rs[r].field] s (execRsFix r s) :=
  ⟨fun h => withCode_passed hr hv (check_failed h), fun h =>
    ⟨fun hl => withCode_passed hr hv (check_passed h (check_failed hl)), fun hl hx =>
      withCode_passed hr hv (check_passed h (check_passed hl (check_failed (someCellFrom_iff.2 hx))))⟩⟩

end Codes

/-- Settles O22, command by command. -/
theorem rsOperandChecks : Obligations.RsOperandChecks := by
  refine ⟨fun s r hr hf hv hfv h => execRsCfg_range hr hf hv hfv h, ?_⟩
  intro s r hr hv nsym t badA badFrame longFrame
  obtain ⟨encLength, encCells⟩ := execRsEnc_checks hv
  obtain ⟨syndLength, syndCells⟩ := execRsSynd_checks hv
  obtain ⟨corrLength, corrRest⟩ := execRsCorr_checks hv
  obtain ⟨elocRange, elocRest⟩ := execRsEloc_checks hv
  obtain ⟨eposRange, eposRest⟩ := execRsEpos_checks hv
  obtain ⟨decLength, decCells⟩ := execRsDec_checks hv
  obtain ⟨checkRange, checkRest⟩ := execRsCheck_checks hv
  obtain ⟨fixRange, fixRest⟩ := execRsFix_checks hv
  rw [badFrameOperands_iff] at checkRange checkRest fixRange fixRest
  rw [badFrameLength_iff] at checkRest fixRest
  exact ⟨encLength, encCells, fun h => ⟨syndLength h, corrLength h⟩,
    fun hlo hhi => ⟨syndCells hlo hhi, (corrRest hlo hhi).1, (corrRest hlo hhi).2⟩,
    fun h => ⟨elocRange h, eposRange h⟩,
    fun hlo hhi => ⟨(elocRest hlo hhi).1, (elocRest hlo hhi).2, (eposRest hlo hhi).1, (eposRest hlo hhi).2⟩,
    decLength, decCells, fun h => ⟨checkRange h, fixRange h⟩,
    fun hop hlen => ⟨(checkRest hop).1 hlen, (fixRest hop).1 hlen⟩,
    fun hop hlen hx => ⟨(checkRest hop).2 hlen hx, (fixRest hop).2 hlen hx⟩⟩

/-! ### Puncture Codec, framer and `BUF.COPY` (R191 to R196, R206 to R212, R227) -/

section Streams

variable {s : State}

theorem execBufCopy_range (h : 4 < s.arg0 ∨ 2 < s.arg1 ∨ VLEN < s.arg2 ∨ VLEN < s.arg3) :
    execBufCopy s = .next (endWith .operandRange s) := by
  rw [execBufCopy, copyOperands_eq_none h]
  rfl

/-- `BUF.COPY` once its operands are found in range. -/
theorem execBufCopy_eq {src dst : BufId} (hop : copyOperands s.arg0 s.arg1 s.arg2 s.arg3 = some (src, dst)) :
    execBufCopy s =
      if VLEN < s.lenOf src then raise .lengthError s
      else if s.lenOf src < s.arg2 + s.arg3 then raise .lengthError s
      else complete (copyInto dst (slice s src s.arg2 s.arg3) s) := by
  rw [execBufCopy, hop]

theorem execBufCopy_length {src : BufId} (hsrc : bufOfNumber s.arg0 = some src) (hdst : s.arg1 ≤ 2) (ho : s.arg2 ≤ VLEN)
    (hc : s.arg3 ≤ VLEN) (h : VLEN < s.lenOf src ∨ s.lenOf src < s.arg2 + s.arg3) :
    execBufCopy s = .next (endWith .lengthError s) := by
  obtain ⟨dst, hdst, hin⟩ := bufOfNumber_of_le_two hdst
  rw [execBufCopy_eq (copyOperands_of_inRange hsrc hdst hin ho hc)]
  exact check_raises fun hl => check_failed (h.resolve_left hl)

theorem exec_schedule_checks {p : Nat} {hp : p < NPS} (hv : s.sched[p].valid = true) :
    (VLEN < s.lenOf .a → execPnPunc p s = .next (endWith .lengthError s)) ∧
    (s.lenOf .a ≤ VLEN → (∃ x ∈ s.vec .a, 2 ≤ x) → execPnPunc p s = .next (endWith .operandRange s)) ∧
    (VLEN < s.arg0 → execPnDepunc p s = .next (endWith .operandRange s)) ∧
    (s.arg0 ≤ VLEN → s.lenOf .a ≠ keptCount s.sched[p] s.arg0 →
      execPnDepunc p s = .next (endWith .lengthError s)) ∧
    (s.arg0 ≤ VLEN → s.lenOf .a = keptCount s.sched[p] s.arg0 → (∃ x ∈ s.vec .a, 2 ≤ x) →
      execPnDepunc p s = .next (endWith .operandRange s)) :=
  ⟨fun h => withBuilt_passed hp hv (check_failed h),
    fun h hbit => withBuilt_passed hp hv (check_passed (Nat.not_lt_of_le h) (check_failed (someCellNotBit_iff.2 hbit))),
    fun h => withBuilt_passed hp hv (check_failed h),
    fun h hlen => withBuilt_passed hp hv (check_passed (Nat.not_lt_of_le h) (check_failed hlen)),
    fun h hlen hbit => withBuilt_passed hp hv (check_passed (Nat.not_lt_of_le h) (check_passed (not_not_intro hlen)
      (check_failed (someCellNotBit_iff.2 hbit))))⟩

theorem execFrNorm_checks :
    (1 < s.arg0 → execFrNorm s = .next (endWith .operandRange s)) ∧
    (s.arg0 ≤ 1 → VLEN < s.lenOf .a ∨ (s.arg0 = 1 ∧ s.lenOf .a % 8 ≠ 0) →
      execFrNorm s = .next (endWith .lengthError s)) ∧
    (s.arg0 ≤ 1 → s.lenOf .a ≤ VLEN → (s.arg0 = 1 → s.lenOf .a % 8 = 0) → (∃ x ∈ s.vec .a, 2 ≤ x) →
      execFrNorm s = .next (endWith .operandRange s)) :=
  ⟨fun h => check_failed h,
    fun h hlen => check_passed (Nat.not_lt_of_le h) (check_raises fun ha => check_failed (hlen.resolve_left ha)),
    fun h hlen hwhole hbit => check_passed (Nat.not_lt_of_le h) (check_passed (Nat.not_lt_of_le hlen)
      (check_passed (fun hno => hno.2 (hwhole hno.1)) (check_failed (someCellNotBit_iff.2 hbit))))⟩

theorem streamsInRange_iff {n : Nat} : ¬ (decide (n < 1) || decide (VLEN < n)) = true ↔ 1 ≤ n ∧ n ≤ VLEN := by
  simp only [Bool.or_eq_true, decide_eq_true_eq]
  omega

theorem execFrDeint_checks :
    (s.arg0 = 0 ∨ VLEN < s.arg0 → execFrDeint s = .next (endWith .operandRange s)) ∧
    (1 ≤ s.arg0 → s.arg0 ≤ VLEN →
      (VLEN < s.lenOf .a → execFrDeint s = .next (endWith .lengthError s)) ∧
      (s.lenOf .a ≤ VLEN → s.lenOf .a < s.arg1 → execFrDeint s = .next (endWith .inputTooShort s))) := by
  refine ⟨fun h => check_failed ?_, fun hlo hhi =>
    ⟨fun h => check_passed (streamsInRange_iff.2 ⟨hlo, hhi⟩) (check_failed h), fun h hshort =>
      check_passed (streamsInRange_iff.2 ⟨hlo, hhi⟩) (check_passed (Nat.not_lt_of_le h) (check_failed hshort))⟩⟩
  simp only [Bool.or_eq_true, decide_eq_true_eq]
  omega

/-- Settles O23, command by command. -/
theorem streamOperandChecks : Obligations.StreamOperandChecks := by
  intro s badBit badEncoder
  have henc : badEncoderOperands s.arg0 s.arg1 s.arg2 s.arg3 = true ↔ badEncoder := badEncoderOperands_iff
  obtain ⟨normRange, normLength, normBits⟩ := execFrNorm_checks (s := s)
  obtain ⟨deintRange, deintLength⟩ := execFrDeint_checks (s := s)
  exact ⟨fun h => check_failed (henc.2 h), fun h hlen => check_passed (mt henc.1 h) (check_failed hlen),
    fun h hlen hbit => check_passed (mt henc.1 h) (check_passed (Nat.not_lt_of_le hlen)
      (check_failed (someCellNotBit_iff.2 hbit))),
    fun p hp hv h => withUnbuilt_passed hp hv (check_failed (badSchedule_iff.2 h)),
    fun p hp hv => exec_schedule_checks hv, normRange, normLength, normBits, deintRange, deintLength,
    fun h => check_failed h, fun h => check_failed h, execBufCopy_range, fun src => execBufCopy_length⟩

end Streams

end Sys2Proof.Machine
end

section
/-! PROOFS. The arithmetic of a field slot (41_field_engine.md R101 to R107, R117): the carry-less product is a commutative
ring, `clmul_mod` is its remainder, and the powers of the generator that the build tables hold are all the non-zero
elements. -/

namespace Sys2Proof.Machine

open Sys2Proof.Config

/-! ### The carry-less product is commutative and associative -/

/-- Every number is a sum of different powers of two. -/
theorem xor_two_pow_induction {P : Nat → Prop} (zero : P 0) (single : ∀ k, P (2 ^ k))
    (xor : ∀ a b, P a → P b → P (a ^^^ b)) (a : Nat) : P a := by
  have below : ∀ n a, a < 2 ^ n → P a := by
    intro n
    induction n with
    | zero =>
      intro a ha
      obtain rfl : a = 0 := Nat.lt_one_iff.1 ha
      exact zero
    | succ n ih =>
      intro a ha
      by_cases hbit : a.testBit n = true
      · have hrest : a ^^^ 2 ^ n < 2 ^ n := by
          refine lt_two_pow_of_testBit_eq_false (Nat.xor_lt_two_pow ha (Nat.pow_lt_pow_succ Nat.one_lt_two)) ?_
          rw [Nat.testBit_xor, hbit, Nat.testBit_two_pow_self, Bool.xor_self]
        have hsum : a ^^^ 2 ^ n ^^^ 2 ^ n = a := Nat.xor_xor_cancel_right ..
        exact hsum ▸ xor _ _ (ih _ hrest) (single n)
      · exact ih a (lt_two_pow_of_testBit_eq_false ha (Bool.eq_false_of_not_eq_true hbit))
  exact below (bitlen a) a (lt_two_pow_bitlen a)

theorem carrylessBelow_xor_right (n a b b' : Nat) :
    carrylessBelow n a (b ^^^ b') = carrylessBelow n a b ^^^ carrylessBelow n a b' := by
  induction n with
  | zero => simp only [carrylessBelow_zero, Nat.xor_self]
  | succ n ih =>
    simp only [carrylessBelow_succ, ih, Nat.shiftLeft_xor_distrib]
    split
    · ac_rfl
    · rfl

theorem carryless_xor_right (a b b' : Nat) : carryless a (b ^^^ b') = carryless a b ^^^ carryless a b' :=
  carrylessBelow_xor_right (bitlen a) a b b'

theorem carryless_zero_right (a : Nat) : carryless a 0 = 0 := by
  induction a using xor_two_pow_induction with
  | zero => rfl
  | single k => rw [carryless_two_pow, Nat.zero_shiftLeft]
  | xor a b ha hb => rw [carryless_xor, ha, hb, Nat.xor_self]

theorem carryless_comm (a b : Nat) : carryless a b = carryless b a := by
  induction a using xor_two_pow_induction with
  | zero => rw [carryless_zero, carryless_zero_right]
  | xor a a' ha ha' => rw [carryless_xor, carryless_xor_right, ha, ha']
  | single k =>
    induction b using xor_two_pow_induction with
    | zero => rw [carryless_zero, carryless_zero_right]
    | xor b b' hb hb' => rw [carryless_xor, carryless_xor_right, hb, hb']
    | single j =>
      rw [carryless_two_pow, carryless_two_pow, Nat.shiftLeft_eq, Nat.shiftLeft_eq, Nat.mul_comm]

theorem carryless_shiftLeft (a b k : Nat) : carryless (a <<< k) b = carryless a b <<< k := by
  induction a using xor_two_pow_induction with
  | zero => rw [Nat.zero_shiftLeft, carryless_zero, Nat.zero_shiftLeft]
  | single j =>
    rw [Nat.shiftLeft_eq, ← Nat.pow_add, carryless_two_pow, carryless_two_pow, Nat.shiftLeft_add]
  | xor a a' ha ha' => rw [Nat.shiftLeft_xor_distrib, carryless_xor, carryless_xor, Nat.shiftLeft_xor_distrib, ha, ha']

theorem carryless_assoc (a b c : Nat) : carryless (carryless a b) c = carryless a (carryless b c) := by
  induction a using xor_two_pow_induction with
  | zero => simp only [carryless_zero]
  | single k => rw [carryless_two_pow, carryless_two_pow, carryless_shiftLeft]
  | xor a a' ha ha' => rw [carryless_xor, carryless_xor, carryless_xor, ha, ha']

theorem carryless_one_left (b : Nat) : carryless 1 b = b := carryless_two_pow 0 b

/-- One step of the multiplication from the low end (R101). -/
theorem carryless_step (a b : Nat) :
    carryless b a = (if b.testBit 0 then a else 0) ^^^ carryless (b >>> 1) (a <<< 1) := by
  have hsplit : b = (if b.testBit 0 then 1 else 0) ^^^ (b >>> 1) <<< 1 := by
    have hone : ∀ (c : Bool) (i : Nat), (if c then 1 else 0).testBit i = (c && decide (i = 0)) := fun c i => by
      cases c <;> cases i <;> simp [Nat.testBit_succ]
    refine Nat.eq_of_testBit_eq fun i => ?_
    rw [Nat.testBit_xor, Nat.testBit_shiftLeft, Nat.testBit_shiftRight, hone]
    cases i with
    | zero => simp
    | succ i => simp [Nat.add_comm]
  have hshift : carryless ((b >>> 1) <<< 1) a = carryless (b >>> 1) (a <<< 1) := by
    rw [carryless_comm (b >>> 1), carryless_shiftLeft, carryless_shiftLeft, carryless_comm a]
  conv_lhs => rw [hsplit, carryless_xor, hshift]
  split
  · rw [carryless_one_left]
  · rw [carryless_zero]

/-! ### `clmul_mod` is the remainder of the product (R101) -/

/-- A polynomial of degree `m`. -/
theorem log2_eq_of_range {prim m : Nat} (hlo : 2 ^ m ≤ prim) (hhi : prim < 2 ^ (m + 1)) : prim.log2 = m :=
  (Nat.log2_eq_iff (by have := Nat.two_pow_pos m; omega)).2 ⟨hlo, hhi⟩

section Product

variable {prim m : Nat} (hlo : 2 ^ m ≤ prim) (hhi : prim < 2 ^ (m + 1))

include hlo hhi

/-- Doubling an element and taking away the polynomial where the degree asks for it leaves an element (R101). -/
theorem reduceShift_lt {a : Nat} (ha : a < 2 ^ m) :
    (if (a <<< 1).testBit m then a <<< 1 ^^^ prim else a <<< 1) < 2 ^ m := by
  have hshift : a <<< 1 < 2 ^ (m + 1) := Nat.shiftLeft_lt ha
  split
  next hbit =>
    refine lt_two_pow_of_testBit_eq_false (Nat.xor_lt_two_pow hshift hhi) ?_
    rw [Nat.testBit_xor, hbit, Nat.testBit_of_two_pow_le_and_two_pow_add_one_gt hlo hhi, Bool.xor_self]
  next hbit => exact lt_two_pow_of_testBit_eq_false hshift (Bool.eq_false_of_not_eq_true hbit)

theorem clmulLoop_isRemainder {fuel a b r : Nat} (ha : a < 2 ^ m) (hb : b < 2 ^ fuel) (hr : r < 2 ^ m) :
    IsRemainder prim (carryless b a ^^^ r) (clmulLoop prim m fuel a b r) := by
  have hlog := log2_eq_of_range hlo hhi
  induction fuel generalizing a b r with
  | zero =>
    obtain rfl : b = 0 := Nat.lt_one_iff.1 hb
    rw [carryless_zero, Nat.zero_xor]
    exact .of_lt (hlog ▸ hr)
  | succ fuel ih =>
    rw [clmulLoop]
    split
    next hzero =>
      rw [hzero, carryless_zero, Nat.zero_xor]
      exact .of_lt (hlog ▸ hr)
    next =>
      have hb' : b >>> 1 < 2 ^ fuel := by
        rw [Nat.shiftRight_eq_div_pow]
        omega
      have hr' : (if b.testBit 0 then r ^^^ a else r) < 2 ^ m := by
        split
        · exact Nat.xor_lt_two_pow hr ha
        · exact hr
      have hstep := ih (reduceShift_lt hlo hhi ha) hb' hr'
      have hsum : carryless b a ^^^ r =
          carryless (b >>> 1) (a <<< 1) ^^^ (if b.testBit 0 then r ^^^ a else r) := by
        rw [carryless_step]
        split
        · ac_rfl
        · rw [Nat.zero_xor]
      rw [hsum]
      by_cases hbit : (a <<< 1).testBit m = true
      · simp only [if_pos hbit] at hstep ⊢
        have hmul := hstep.xor (.of_multiple (b >>> 1) prim)
        rw [carryless_xor_right, Nat.xor_zero] at hmul
        have hcancel : ∀ x y z : Nat, x ^^^ y ^^^ z ^^^ y = x ^^^ z := fun x y z => by
          rw [Nat.xor_right_comm x y z, Nat.xor_xor_cancel_right]
        rwa [hcancel] at hmul
      · simp only [if_neg hbit] at hstep ⊢
        exact hstep

theorem clmulMod_isRemainder {a b : Nat} (ha : a < 2 ^ m) (hb : b < 2 ^ m) :
    IsRemainder prim (carryless a b) (clmulMod a b prim m) := by
  have h := clmulLoop_isRemainder hlo hhi ha hb (Nat.two_pow_pos m)
  rwa [Nat.xor_zero, carryless_comm] at h

theorem clmulMod_lt {a b : Nat} (ha : a < 2 ^ m) (hb : b < 2 ^ m) : clmulMod a b prim m < 2 ^ m := by
  have h := (clmulMod_isRemainder hlo hhi ha hb).lt
  rwa [log2_eq_of_range hlo hhi] at h

/-- As a remainder is unique, `clmul_mod` is whatever is shown to be one. -/
theorem clmulMod_eq {a b r : Nat} (ha : a < 2 ^ m) (hb : b < 2 ^ m) (h : IsRemainder prim (carryless a b) r) :
    clmulMod a b prim m = r :=
  (clmulMod_isRemainder hlo hhi ha hb).unique (by have := Nat.two_pow_pos m; omega) h

theorem clmulMod_comm {a b : Nat} (ha : a < 2 ^ m) (hb : b < 2 ^ m) : clmulMod a b prim m = clmulMod b a prim m :=
  clmulMod_eq hlo hhi ha hb (carryless_comm b a ▸ clmulMod_isRemainder hlo hhi hb ha)

theorem clmulMod_xor {a b c : Nat} (ha : a < 2 ^ m) (hb : b < 2 ^ m) (hc : c < 2 ^ m) :
    clmulMod a (b ^^^ c) prim m = clmulMod a b prim m ^^^ clmulMod a c prim m :=
  clmulMod_eq hlo hhi ha (Nat.xor_lt_two_pow hb hc) <| by
    rw [carryless_xor_right]
    exact (clmulMod_isRemainder hlo hhi ha hb).xor (clmulMod_isRemainder hlo hhi ha hc)

/-- The remainder of a product may be taken of one factor first. -/
theorem carryless_clmulMod_isRemainder {a b c : Nat} (ha : a < 2 ^ m) (hb : b < 2 ^ m) (hc : c < 2 ^ m) :
    IsRemainder prim (carryless (carryless a b) c) (clmulMod (clmulMod a b prim m) c prim m) := by
  obtain ⟨q, hq⟩ := (clmulMod_isRemainder hlo hhi ha hb).multiple
  have hrest := clmulMod_isRemainder hlo hhi (clmulMod_lt hlo hhi ha hb) hc
  have h := IsRemainder.xor (.of_multiple (carryless q c) prim) hrest
  have hmul : carryless (carryless q prim) c = carryless (carryless q c) prim := by
    rw [carryless_assoc, carryless_assoc, carryless_comm prim]
  rw [hq, carryless_xor, hmul]
  rwa [Nat.zero_xor] at h

theorem clmulMod_assoc {a b c : Nat} (ha : a < 2 ^ m) (hb : b < 2 ^ m) (hc : c < 2 ^ m) :
    clmulMod (clmulMod a b prim m) c prim m = clmulMod a (clmulMod b c prim m) prim m := by
  have hleft := carryless_clmulMod_isRemainder hlo hhi ha hb hc
  have hright := carryless_clmulMod_isRemainder hlo hhi hb hc ha
  rw [carryless_comm _ a, ← carryless_assoc] at hright
  rw [clmulMod_comm hlo hhi ha (clmulMod_lt hlo hhi hb hc)]
  exact hleft.unique (by have := Nat.two_pow_pos m; omega) hright

theorem one_clmulMod {a : Nat} (hm : 1 ≤ m) (ha : a < 2 ^ m) : clmulMod 1 a prim m = a :=
  clmulMod_eq hlo hhi (Nat.one_lt_two_pow (by omega)) ha <| by
    rw [carryless_one_left]
    exact .of_lt (by rwa [log2_eq_of_range hlo hhi])

theorem zero_clmulMod {a : Nat} (ha : a < 2 ^ m) : clmulMod 0 a prim m = 0 :=
  clmulMod_eq hlo hhi (Nat.two_pow_pos m) ha <| by
    rw [carryless_zero]
    exact .of_lt (Nat.two_pow_pos _)

end Product

/-! ### The powers of the generator (R102) -/

theorem powerOf_zero (prim gen m : Nat) : powerOf prim gen m 0 = 1 := rfl

theorem powerOf_succ (prim gen m i : Nat) :
    powerOf prim gen m (i + 1) = clmulMod (powerOf prim gen m i) gen prim m :=
  Function.iterate_succ_apply' ..

/-- The first loop of the build: it stops at a value already seen, and otherwise has made the powers and the value after
the last (R102). -/
theorem powerLoop_eq_some_iff {prim gen m k x seen : Nat} {r : List Nat × Nat} :
    powerLoop prim gen m k x seen = some r ↔
      (∀ i < k, seen.testBit ((fun y => clmulMod y gen prim m)^[i] x) = false) ∧
      (∀ i j, i < j → j < k →
        (fun y => clmulMod y gen prim m)^[i] x ≠ (fun y => clmulMod y gen prim m)^[j] x) ∧
      r = ((List.range k).map fun i => (fun y => clmulMod y gen prim m)^[i] x,
        (fun y => clmulMod y gen prim m)^[k] x) := by
  induction k generalizing x seen r with
  | zero =>
    rw [powerLoop, Option.some_inj, eq_comm]
    simp
  | succ k ih =>
    rw [powerLoop]
    split
    next hseen =>
      simp only [reduceCtorEq, false_iff]
      rintro ⟨hno, -⟩
      have := hno 0 k.succ_pos
      rw [Function.iterate_zero, id, hseen] at this
      cases this
    next hseen =>
      have hmark : ∀ y, (seen ||| (1 <<< x)).testBit y = (seen.testBit y || decide (x = y)) := fun y => by
        rw [Nat.testBit_or, Nat.one_shiftLeft, Nat.testBit_two_pow]
      have hlist : ((List.range (k + 1)).map fun i => (fun y => clmulMod y gen prim m)^[i] x) =
          x :: (List.range k).map fun i => (fun y => clmulMod y gen prim m)^[i] (clmulMod x gen prim m) := by
        rw [List.range_succ_eq_map, List.map_cons, List.map_map]
        rfl
      have hrest : (∀ i < k + 1, seen.testBit ((fun y => clmulMod y gen prim m)^[i] x) = false) ∧
            (∀ i j, i < j → j < k + 1 →
              (fun y => clmulMod y gen prim m)^[i] x ≠ (fun y => clmulMod y gen prim m)^[j] x) ↔
          (∀ i < k, (seen ||| (1 <<< x)).testBit
              ((fun y => clmulMod y gen prim m)^[i] (clmulMod x gen prim m)) = false) ∧
            (∀ i j, i < j → j < k → (fun y => clmulMod y gen prim m)^[i] (clmulMod x gen prim m) ≠
              (fun y => clmulMod y gen prim m)^[j] (clmulMod x gen prim m)) := by
        simp only [hmark, Bool.or_eq_false_iff, decide_eq_false_iff_not]
        constructor
        · rintro ⟨hno, hne⟩
          exact ⟨fun i hi => ⟨hno (i + 1) (by omega), hne 0 (i + 1) (by omega) (by omega)⟩,
            fun i j hij hj => hne (i + 1) (j + 1) (by omega) (by omega)⟩
        · rintro ⟨hno, hne⟩
          refine ⟨fun i hi => ?_, fun i j hij hj => ?_⟩
          · cases i with
            | zero => exact Bool.eq_false_of_not_eq_true hseen
            | succ i => exact (hno i (by omega)).1
          · obtain ⟨j, rfl⟩ := Nat.exists_eq_succ_of_ne_zero (Nat.ne_of_gt (Nat.zero_lt_of_lt hij))
            cases i with
            | zero => exact (hno j (by omega)).2
            | succ i => exact hne i j (by omega) (by omega)
      rw [← and_assoc, hrest, hlist, and_assoc]
      cases hloop : powerLoop prim gen m k (clmulMod x gen prim m) (seen ||| (1 <<< x)) with
      | none =>
        simp only [reduceCtorEq, false_iff]
        rintro ⟨hno, hne, -⟩
        have := ih.2 ⟨hno, hne, rfl⟩
        rw [hloop] at this
        cases this
      | some p =>
        obtain ⟨hno, hne, rfl⟩ := ih.1 hloop
        simp only [Option.some.injEq, Function.iterate_succ_apply]
        exact ⟨fun h => ⟨hno, hne, h.symm⟩, fun h => h.2.2.symm⟩

/-- The powers below `N`, in order. -/
def powers (prim gen m : Nat) : List Nat := (List.range (2 ^ m - 1)).map (powerOf prim gen m)

theorem powers_length (prim gen m : Nat) : (powers prim gen m).length = 2 ^ m - 1 := by
  rw [powers, List.length_map, List.length_range]

theorem powers_getElem {prim gen m i : Nat} (hi : i < (powers prim gen m).length) :
    (powers prim gen m)[i] = powerOf prim gen m i := by
  simp only [powers, List.getElem_map, List.getElem_range]

/-- A build succeeds exactly when the powers cycle, and then the tables hold the powers and their exponents (R102). -/
theorem buildTables_eq_some_iff {prim gen m : Nat} {tables : List Symbol × List Symbol} :
    buildTables prim gen m = some tables ↔
      PowersCycle prim gen m ∧
        tables = ((powers prim gen m ++ powers prim gen m).map (BitVec.ofNat 8),
          (List.range (2 ^ m - 1)).map fun k => BitVec.ofNat 8 ((powers prim gen m).idxOf (k + 1))) := by
  have hloop := fun r => powerLoop_eq_some_iff (prim := prim) (gen := gen) (m := m) (k := 2 ^ m - 1) (x := 1)
    (seen := 0) (r := r)
  simp only [Nat.zero_testBit, implies_true, true_and] at hloop
  unfold buildTables
  cases hl : powerLoop prim gen m (2 ^ m - 1) 1 0 with
  | none =>
    simp only [reduceCtorEq, false_iff]
    rintro ⟨⟨hne, -⟩, -⟩
    have := (hloop _).2 ⟨hne, rfl⟩
    rw [hl] at this
    cases this
  | some r =>
    obtain ⟨hne, rfl⟩ := (hloop r).1 hl
    dsimp only
    split
    next hlast =>
      rw [Option.some_inj, eq_comm]
      exact ⟨fun h => ⟨⟨hne, hlast⟩, h⟩, fun h => h.2⟩
    next hlast =>
      simp only [reduceCtorEq, false_iff]
      rintro ⟨⟨-, hcycle⟩, -⟩
      exact hlast hcycle

/-- Parameters with which a build succeeds (R102). -/
structure Primitive (prim gen m : Nat) : Prop where
  width : 1 ≤ m
  lo : 2 ^ m ≤ prim
  hi : prim < 2 ^ (m + 1)
  genPos : 1 ≤ gen
  genLe : gen ≤ 2 ^ m - 1
  cycle : PowersCycle prim gen m

namespace Primitive

variable {prim gen m : Nat} (h : Primitive prim gen m)

include h

theorem gen_lt : gen < 2 ^ m := by
  have := h.genLe
  have := Nat.two_pow_pos m
  omega

theorem one_lt : 1 < 2 ^ m := Nat.one_lt_two_pow (Nat.one_le_iff_ne_zero.1 h.width)

theorem order_pos : 0 < 2 ^ m - 1 := by
  have := h.one_lt
  omega

theorem powerOf_lt (i : Nat) : powerOf prim gen m i < 2 ^ m := by
  induction i with
  | zero => exact h.one_lt
  | succ i ih => exact powerOf_succ prim gen m i ▸ clmulMod_lt h.lo h.hi ih h.gen_lt

theorem powerOf_one : powerOf prim gen m 1 = gen := one_clmulMod h.lo h.hi h.width h.gen_lt

theorem powerOf_add (i j : Nat) :
    powerOf prim gen m (i + j) = clmulMod (powerOf prim gen m i) (powerOf prim gen m j) prim m := by
  induction j with
  | zero =>
    rw [powerOf_zero, clmulMod_comm h.lo h.hi (h.powerOf_lt i) h.one_lt, one_clmulMod h.lo h.hi h.width (h.powerOf_lt i)]
    rfl
  | succ j ih =>
    rw [← Nat.add_assoc, powerOf_succ, ih, powerOf_succ, clmulMod_assoc h.lo h.hi (h.powerOf_lt i) (h.powerOf_lt j) h.gen_lt]

theorem powerOf_order : powerOf prim gen m (2 ^ m - 1) = 1 := h.cycle.2

theorem powerOf_add_order (i : Nat) : powerOf prim gen m (i + (2 ^ m - 1)) = powerOf prim gen m i := by
  rw [Nat.add_comm, h.powerOf_add, h.powerOf_order, one_clmulMod h.lo h.hi h.width (h.powerOf_lt i)]

theorem powerOf_mod (i : Nat) : powerOf prim gen m (i % (2 ^ m - 1)) = powerOf prim gen m i := by
  induction i using Nat.strong_induction_on with
  | _ i ih =>
    by_cases hi : i < 2 ^ m - 1
    · rw [Nat.mod_eq_of_lt hi]
    · have hsub : i - (2 ^ m - 1) + (2 ^ m - 1) = i := Nat.sub_add_cancel (Nat.le_of_not_lt hi)
      have hpos := h.order_pos
      rw [Nat.mod_eq_sub_mod (Nat.le_of_not_lt hi), ih _ (by omega), ← h.powerOf_add_order, hsub]

/-- No power is 0: after a 0 every later value would be 0, and the cycle returns to 1. -/
theorem powerOf_ne_zero (i : Nat) : powerOf prim gen m i ≠ 0 := by
  intro hzero
  rw [← h.powerOf_mod] at hzero
  have hlt : i % (2 ^ m - 1) < 2 ^ m - 1 := Nat.mod_lt _ h.order_pos
  have hsum := h.powerOf_add (i % (2 ^ m - 1)) (2 ^ m - 1 - i % (2 ^ m - 1))
  rw [hzero, zero_clmulMod h.lo h.hi (h.powerOf_lt _), Nat.add_sub_cancel' hlt.le, h.powerOf_order] at hsum
  cases hsum

theorem powerOf_inj {i j : Nat} (hi : i < 2 ^ m - 1) (hj : j < 2 ^ m - 1)
    (heq : powerOf prim gen m i = powerOf prim gen m j) : i = j := by
  obtain hlt | rfl | hlt := Nat.lt_trichotomy i j
  · exact absurd heq (h.cycle.1 i j hlt hj)
  · rfl
  · exact absurd heq.symm (h.cycle.1 j i hlt hi)

/-- Every non-zero element is a power: there are as many of the one as of the other. -/
theorem exists_powerOf {x : Nat} (hx : x ≠ 0) (hlt : x < 2 ^ m) : ∃ i < 2 ^ m - 1, powerOf prim gen m i = x := by
  have hmaps : Set.MapsTo (powerOf prim gen m) (Finset.range (2 ^ m - 1)) (Finset.Ico 1 (2 ^ m)) := fun i _ =>
    Finset.mem_coe.2 (Finset.mem_Ico.2 ⟨Nat.one_le_iff_ne_zero.2 (h.powerOf_ne_zero i), h.powerOf_lt i⟩)
  have hinj : Set.InjOn (powerOf prim gen m) (Finset.range (2 ^ m - 1)) := fun i hi j hj heq =>
    h.powerOf_inj (Finset.mem_range.1 hi) (Finset.mem_range.1 hj) heq
  have hsurj := Finset.surjOn_of_injOn_of_card_le _ hmaps hinj (by simp)
  obtain ⟨i, hi, rfl⟩ := hsurj (Finset.mem_coe.2 (Finset.mem_Ico.2 ⟨Nat.one_le_iff_ne_zero.2 hx, hlt⟩))
  exact ⟨i, Finset.mem_range.1 hi, rfl⟩

theorem powers_nodup : (powers prim gen m).Nodup :=
  List.Nodup.map_on (fun _ hi _ hj heq => h.powerOf_inj (List.mem_range.1 hi) (List.mem_range.1 hj) heq) List.nodup_range

theorem idxOf_powerOf {i : Nat} (hi : i < 2 ^ m - 1) : (powers prim gen m).idxOf (powerOf prim gen m i) = i := by
  have hlen : i < (powers prim gen m).length := powers_length .. ▸ hi
  rw [← powers_getElem hlen, h.powers_nodup.idxOf_getElem]

end Primitive

/-! ### The tables of a slot (R102, R103) -/

/-- A slot that holds what a build makes of primitive parameters. -/
structure FieldSlot.Built (t : FieldSlot) : Prop where
  primitive : Primitive t.prim.toNat t.gen.toNat t.m
  small : t.m ≤ MAXM
  exp : t.exp = (powers t.prim.toNat t.gen.toNat t.m ++ powers t.prim.toNat t.gen.toNat t.m).map (BitVec.ofNat 8)
  log : t.log = (List.range (2 ^ t.m - 1)).map fun k =>
    BitVec.ofNat 8 ((powers t.prim.toNat t.gen.toNat t.m).idxOf (k + 1))

theorem FieldSlot.built {t : FieldSlot} (ht : t.Sound) (hv : t.valid = true) : t.Built := by
  obtain ⟨hm, hm8, hlo, hhi, hg, hg', htab⟩ := ht hv
  obtain ⟨hcycle, heq⟩ := buildTables_eq_some_iff.1 htab
  exact ⟨⟨hm, hlo, hhi, hg, hg', hcycle⟩, hm8, congrArg Prod.fst heq, congrArg Prod.snd heq⟩

namespace FieldSlot.Built

variable {t : FieldSlot} (h : t.Built)

include h

theorem two_pow_le : 2 ^ t.m ≤ 256 := Nat.pow_le_pow_right Nat.two_pos (show t.m ≤ 8 from h.small)

theorem expAt_eq {i : Nat} (hi : i < 2 * (2 ^ t.m - 1)) : t.expAt i = powerOf t.prim.toNat t.gen.toNat t.m i := by
  have hlen := powers_length t.prim.toNat t.gen.toNat t.m
  have hsmall : ∀ j, powerOf t.prim.toNat t.gen.toNat t.m j < 2 ^ 8 := fun j =>
    (h.primitive.powerOf_lt j).trans_le h.two_pow_le
  have hget : (powers t.prim.toNat t.gen.toNat t.m ++ powers t.prim.toNat t.gen.toNat t.m)[i]? =
      some (powerOf t.prim.toNat t.gen.toNat t.m i) := by
    by_cases hlow : i < 2 ^ t.m - 1
    · rw [List.getElem?_append_left (by omega), List.getElem?_eq_getElem (by omega), powers_getElem]
    · rw [List.getElem?_append_right (by omega), List.getElem?_eq_getElem (by omega), powers_getElem, hlen,
        ← h.primitive.powerOf_add_order, Nat.sub_add_cancel (Nat.le_of_not_lt hlow)]
  rw [FieldSlot.expAt, h.exp, List.getD_eq_getElem?_getD, List.getElem?_map, hget, Option.map_some, Option.getD_some,
    BitVec.toNat_ofNat, Nat.mod_eq_of_lt (hsmall i)]

theorem logAt_powerOf {i : Nat} (hi : i < 2 ^ t.m - 1) : t.logAt (powerOf t.prim.toNat t.gen.toNat t.m i) = i := by
  have hidx := h.primitive.idxOf_powerOf hi
  have hlt := h.primitive.powerOf_lt i
  obtain ⟨k, hk⟩ := Nat.exists_eq_succ_of_ne_zero (h.primitive.powerOf_ne_zero i)
  rw [hk] at hidx hlt
  have hle := h.two_pow_le
  rw [hk, FieldSlot.logAt, h.log, List.getD_eq_getElem?_getD, List.getElem?_map, List.getElem?_range (by omega),
    Option.map_some, Option.getD_some, BitVec.toNat_ofNat, hidx, Nat.mod_eq_of_lt (by omega)]

/-- The logarithm of a non-zero element is its exponent. -/
theorem powerOf_logAt {x : Nat} (hx : x ≠ 0) (hlt : x < 2 ^ t.m) :
    t.logAt x < 2 ^ t.m - 1 ∧ powerOf t.prim.toNat t.gen.toNat t.m (t.logAt x) = x := by
  obtain ⟨i, hi, rfl⟩ := h.primitive.exists_powerOf hx hlt
  rw [h.logAt_powerOf hi]
  exact ⟨hi, rfl⟩

/-- Multiplication by the tables is the product modulo `prim` (R104). -/
theorem gfMul_eq_clmulMod {x y : Nat} (hx : x < 2 ^ t.m) (hy : y < 2 ^ t.m) :
    gfMul t x y = clmulMod x y t.prim.toNat t.m := by
  have hlo := h.primitive.lo
  have hhi := h.primitive.hi
  unfold gfMul
  split
  next hzero =>
    obtain rfl | rfl := hzero
    · rw [zero_clmulMod hlo hhi hy]
    · rw [clmulMod_comm hlo hhi hx hy, zero_clmulMod hlo hhi hx]
  next hne =>
    obtain ⟨hx0, hy0⟩ := not_or.1 hne
    obtain ⟨hlx, hex⟩ := h.powerOf_logAt hx0 hx
    obtain ⟨hly, hey⟩ := h.powerOf_logAt hy0 hy
    rw [h.expAt_eq (by omega), h.primitive.powerOf_add, hex, hey]

end FieldSlot.Built

/-- Settles O24: the tables of a valid slot are the powers of its generator and their exponents. -/
theorem builtTablesAreInverse : Obligations.BuiltTablesAreInverse := by
  intro t ht hv
  have h := FieldSlot.built ht hv
  have hp := h.primitive
  have hpos := hp.order_pos
  unfold FieldSlot.order
  refine ⟨fun i hi => ?_, fun x hx hx' => ?_, fun i hlo hhi => ?_, ?_, ?_, fun i hi => h.expAt_eq (by omega)⟩
  · rw [h.expAt_eq (by omega), h.logAt_powerOf hi]
    have := hp.powerOf_lt i
    have := hp.powerOf_ne_zero i
    omega
  · obtain ⟨hlt, heq⟩ := h.powerOf_logAt (x := x) (by omega) (by omega)
    exact ⟨by rw [h.expAt_eq (by omega), heq], hlt⟩
  · rw [h.expAt_eq hhi, h.expAt_eq (by omega), ← hp.powerOf_add_order (i - _), Nat.sub_add_cancel hlo]
  · exact h.expAt_eq (by omega)
  · exact (h.expAt_eq (by omega)).trans hp.powerOf_one

/-- Settles O25. -/
theorem tableProductIsPolynomialProduct : Obligations.TableProductIsPolynomialProduct :=
  ⟨fun _ _ _ _ ha hb hlo hhi => ⟨clmulMod_lt hlo hhi ha hb, (clmulMod_isRemainder hlo hhi ha hb).multiple⟩,
    fun _ _ _ ht hv hx hy => (FieldSlot.built ht hv).gfMul_eq_clmulMod hx hy⟩

end Sys2Proof.Machine
end

section
/-! PROOFS. The elements of a built slot are a field (41_field_engine.md R100, R117): every fact about the operations on
numbers is read off from a field `F` in which the elements are numbers' images. -/

namespace Sys2Proof.Machine

open Sys2Proof.Config

/-! ### The field of the elements -/

/-- The elements of a field of width `m` (R100). -/
def Element (m : Nat) : Type := { x : Nat // x < 2 ^ m }

/-- Addition is xor, multiplication is `clmul_mod` (R101, R107). -/
@[reducible] def elementRing {prim gen m : Nat} (h : Primitive prim gen m) : CommRing (Element m) :=
  letI : Add (Element m) := ⟨fun a b => ⟨a.1 ^^^ b.1, Nat.xor_lt_two_pow a.2 b.2⟩⟩
  letI : Mul (Element m) := ⟨fun a b => ⟨clmulMod a.1 b.1 prim m, clmulMod_lt h.lo h.hi a.2 b.2⟩⟩
  letI : Neg (Element m) := ⟨fun a => a⟩
  letI : Zero (Element m) := ⟨⟨0, Nat.two_pow_pos m⟩⟩
  letI : One (Element m) := ⟨⟨1, h.one_lt⟩⟩
  CommRing.ofMinimalAxioms (fun a b c => Subtype.ext (Nat.xor_assoc a.1 b.1 c.1))
    (fun a => Subtype.ext (Nat.zero_xor a.1)) (fun a => Subtype.ext (Nat.xor_self a.1))
    (fun a b c => Subtype.ext (clmulMod_assoc h.lo h.hi a.2 b.2 c.2))
    (fun a b => Subtype.ext (clmulMod_comm h.lo h.hi a.2 b.2))
    (fun a => Subtype.ext (one_clmulMod h.lo h.hi h.width a.2))
    (fun a b c => Subtype.ext (clmulMod_xor h.lo h.hi a.2 b.2 c.2))

/-- The inverse of the `i`-th power is the power that completes the cycle. -/
theorem elementRing_isField {prim gen m : Nat} (h : Primitive prim gen m) :
    @IsField (Element m) (elementRing h).toSemiring :=
  letI := elementRing h
  { exists_pair_ne := ⟨0, 1, fun h01 => Nat.zero_ne_one (congrArg Subtype.val h01)⟩
    mul_comm := mul_comm
    mul_inv_cancel := by
      intro a ha
      have ha0 : a.1 ≠ 0 := fun h0 => ha (Subtype.ext h0)
      obtain ⟨i, hi, hpow⟩ := h.exists_powerOf ha0 a.2
      refine ⟨⟨powerOf prim gen m (2 ^ m - 1 - i), h.powerOf_lt _⟩, Subtype.ext ?_⟩
      have hsum := h.powerOf_add i (2 ^ m - 1 - i)
      rw [Nat.add_sub_cancel' hi.le, h.powerOf_order, hpow] at hsum
      exact hsum.symm }

/-- The elements of slot `t` as members of a field: `toF` keeps them apart and turns xor and the table product into sum
and product. -/
structure FieldModel (t : FieldSlot) (F : Type) [Field F] where
  built : t.Built
  toF : Nat → F
  inj : ∀ {x y}, x < 2 ^ t.m → y < 2 ^ t.m → toF x = toF y → x = y
  zero : toF 0 = 0
  one : toF 1 = 1
  xor : ∀ {x y}, x < 2 ^ t.m → y < 2 ^ t.m → toF (x ^^^ y) = toF x + toF y
  mul : ∀ {x y}, x < 2 ^ t.m → y < 2 ^ t.m → toF (gfMul t x y) = toF x * toF y

theorem FieldSlot.Built.exists_model {t : FieldSlot} (h : t.Built) :
    ∃ (F : Type) (_ : Field F), Nonempty (FieldModel t F) := by
  have hp := h.primitive
  let _ : CommRing (Element t.m) := elementRing hp
  let _ : Field (Element t.m) := (elementRing_isField hp).toField
  let toF : Nat → Element t.m := fun x => if hx : x < 2 ^ t.m then ⟨x, hx⟩ else 0
  have hto : ∀ {x} (hx : x < 2 ^ t.m), toF x = ⟨x, hx⟩ := fun hx => dif_pos hx
  refine ⟨Element t.m, inferInstance, ⟨⟨h, toF, fun hx hy heq => ?_, hto (Nat.two_pow_pos _), hto hp.one_lt,
    fun hx hy => ?_, fun hx hy => ?_⟩⟩⟩
  · rw [hto hx, hto hy] at heq
    exact congrArg Subtype.val heq
  · rw [hto hx, hto hy, hto (Nat.xor_lt_two_pow hx hy)]
    rfl
  · rw [h.gfMul_eq_clmulMod hx hy, hto hx, hto hy, hto (clmulMod_lt hp.lo hp.hi hx hy)]
    rfl

/-! ### Operations on elements -/

namespace FieldModel

variable {t : FieldSlot} {F : Type} [Field F] (M : FieldModel t F) {x y : Nat}

include M

theorem one_lt : 1 < 2 ^ t.m := M.built.primitive.one_lt

theorem mul_lt (hx : x < 2 ^ t.m) (hy : y < 2 ^ t.m) : gfMul t x y < 2 ^ t.m := by
  rw [M.built.gfMul_eq_clmulMod hx hy]
  exact clmulMod_lt M.built.primitive.lo M.built.primitive.hi hx hy

theorem add_self (a : F) : a + a = 0 := by
  have h : (1 : F) + 1 = 0 := by
    rw [← M.one, ← M.xor M.one_lt M.one_lt, Nat.xor_self, M.zero]
  calc a + a = a * (1 + 1) := by ring
    _ = 0 := by rw [h, mul_zero]

theorem neg_eq (a : F) : -a = a := neg_eq_of_add_eq_zero_left (M.add_self a)

theorem sub_eq_add (a b : F) : a - b = a + b := by rw [sub_eq_add_neg, M.neg_eq]

theorem toF_eq_zero_iff (hx : x < 2 ^ t.m) : M.toF x = 0 ↔ x = 0 :=
  ⟨fun h => M.inj hx (Nat.two_pow_pos _) (h.trans M.zero.symm), fun h => h ▸ M.zero⟩

/-- The generator of the field (R102). -/
def alpha : F := M.toF t.gen.toNat

theorem toF_powerOf (i : Nat) : M.toF (powerOf t.prim.toNat t.gen.toNat t.m i) = M.alpha ^ i := by
  have hp := M.built.primitive
  induction i with
  | zero => rw [powerOf_zero, M.one, pow_zero]
  | succ i ih =>
    rw [powerOf_succ, ← M.built.gfMul_eq_clmulMod (hp.powerOf_lt i) hp.gen_lt, M.mul (hp.powerOf_lt i) hp.gen_lt, ih,
      pow_succ, alpha]

theorem order_pos : 0 < t.order := M.built.primitive.order_pos

theorem alpha_ne_zero : M.alpha ≠ 0 := by
  have hgen := M.built.primitive.genPos
  rw [alpha, ne_eq, M.toF_eq_zero_iff M.built.primitive.gen_lt]
  omega

theorem alpha_pow_order : M.alpha ^ t.order = 1 := by
  rw [FieldSlot.order, ← M.toF_powerOf, M.built.primitive.powerOf_order, M.one]

/-- The powers of the generator below the order are different. -/
theorem alpha_pow_inj {i j : Nat} (hi : i < t.order) (hj : j < t.order) (h : M.alpha ^ i = M.alpha ^ j) : i = j := by
  have hp := M.built.primitive
  rw [← M.toF_powerOf, ← M.toF_powerOf] at h
  exact hp.powerOf_inj hi hj (M.inj (hp.powerOf_lt i) (hp.powerOf_lt j) h)

theorem toF_expAt {i : Nat} (hi : i < 2 * t.order) : t.expAt i < 2 ^ t.m ∧ M.toF (t.expAt i) = M.alpha ^ i := by
  rw [M.built.expAt_eq hi]
  exact ⟨M.built.primitive.powerOf_lt i, M.toF_powerOf i⟩

theorem alpha_pow_logAt (hx : x ≠ 0) (hlt : x < 2 ^ t.m) : t.logAt x < t.order ∧ M.alpha ^ t.logAt x = M.toF x := by
  obtain ⟨hlog, heq⟩ := M.built.powerOf_logAt hx hlt
  exact ⟨hlog, by rw [← M.toF_powerOf, heq]⟩

theorem alpha_zpow_emod (p : Int) : M.alpha ^ (p % (t.order : Int)) = M.alpha ^ p := by
  have hone : M.alpha ^ ((t.order : Int) * (p / (t.order : Int))) = 1 := by
    rw [zpow_mul, zpow_natCast, M.alpha_pow_order, one_zpow]
  conv_rhs => rw [← Int.mul_ediv_add_emod p t.order, zpow_add₀ M.alpha_ne_zero, hone, one_mul]

/-- `gf_pow` is the power of an element, of any sign (R106). -/
theorem toF_gfPow (hx : x < 2 ^ t.m) (p : Int) : gfPow t x p < 2 ^ t.m ∧ M.toF (gfPow t x p) = M.toF x ^ p := by
  have hpos : (0 : Int) < t.order := Int.natCast_pos.2 M.order_pos
  unfold gfPow
  by_cases h0 : x = 0
  · rw [if_pos h0, h0, M.zero]
    by_cases hp : p = 0
    · rw [if_pos hp, hp, zpow_zero, M.one]
      exact ⟨M.one_lt, rfl⟩
    · rw [if_neg hp, zero_zpow p hp, M.zero]
      exact ⟨Nat.two_pow_pos _, rfl⟩
  · rw [if_neg h0]
    obtain ⟨-, hlog⟩ := M.alpha_pow_logAt h0 hx
    have hnonneg : 0 ≤ (t.logAt x : Int) * p % (t.order : Int) := Int.emod_nonneg _ hpos.ne'
    have hlt : (t.logAt x : Int) * p % (t.order : Int) < t.order := Int.emod_lt_of_pos _ hpos
    obtain ⟨hsmall, hexp⟩ := M.toF_expAt (i := ((t.logAt x : Int) * p % (t.order : Int)).toNat) (by omega)
    refine ⟨hsmall, hexp.trans ?_⟩
    rw [← zpow_natCast, Int.toNat_of_nonneg hnonneg, M.alpha_zpow_emod, zpow_mul, zpow_natCast, hlog]

theorem gfPow_lt (hx : x < 2 ^ t.m) (p : Int) : gfPow t x p < 2 ^ t.m := (M.toF_gfPow hx p).1

/-- `gf_div` is the quotient (R105). -/
theorem gfDiv_eq_some (hx : x < 2 ^ t.m) (hy : y < 2 ^ t.m) (hy0 : y ≠ 0) :
    ∃ q, gfDiv t x y = some q ∧ q < 2 ^ t.m ∧ M.toF q = M.toF x / M.toF y := by
  unfold gfDiv
  rw [if_neg hy0]
  by_cases h0 : x = 0
  · rw [if_pos h0, h0, M.zero, zero_div]
    exact ⟨0, rfl, Nat.two_pow_pos _, M.zero⟩
  · rw [if_neg h0]
    obtain ⟨hlx, hex⟩ := M.alpha_pow_logAt h0 hx
    obtain ⟨hly, hey⟩ := M.alpha_pow_logAt hy0 hy
    obtain ⟨hsmall, hexp⟩ := M.toF_expAt (i := t.logAt x + t.order - t.logAt y) (by omega)
    refine ⟨_, rfl, hsmall, hexp.trans ?_⟩
    have hy1 : M.alpha ^ t.logAt y ≠ 0 := pow_ne_zero _ M.alpha_ne_zero
    rw [← hex, ← hey, eq_div_iff hy1, ← pow_add, Nat.sub_add_cancel (by omega), pow_add, M.alpha_pow_order, mul_one]

theorem gfInv_eq_some (hx : x < 2 ^ t.m) (hx0 : x ≠ 0) :
    ∃ u, gfInv t x = some u ∧ u < 2 ^ t.m ∧ M.toF u = (M.toF x)⁻¹ := by
  obtain ⟨u, hu, hlt, heq⟩ := M.gfDiv_eq_some M.one_lt hx hx0
  exact ⟨u, hu, hlt, by rw [heq, M.one, one_div]⟩

/-- A product with a given factor other than 0 has one other factor. -/
theorem eq_of_gfMul_eq {u v : Nat} (hu : u < 2 ^ t.m) (hv : v < 2 ^ t.m) (hy : y < 2 ^ t.m) (hy0 : y ≠ 0)
    (h : gfMul t u y = gfMul t v y) : u = v := by
  have hf := congrArg M.toF h
  rw [M.mul hu hy, M.mul hv hy] at hf
  exact M.inj hu hv (mul_right_cancel₀ (mt (M.toF_eq_zero_iff hy).1 hy0) hf)

end FieldModel

theorem gfDiv_zero (t : FieldSlot) (x : Nat) : gfDiv t x 0 = none := if_pos rfl

/-- Settles O26: each law is the field's, read off through the model. -/
theorem fieldLaws : Obligations.FieldLaws := by
  intro t ht hv x y z hx hy hz
  obtain ⟨F, _, ⟨M⟩⟩ := (FieldSlot.built ht hv).exists_model
  have hxy := M.mul_lt hx hy
  have hyz := M.mul_lt hy hz
  unfold gfAdd
  refine ⟨Nat.xor_lt_two_pow hx hy, Nat.xor_self x, hxy, ?comm, ?assoc, ?one, ?distrib, fun hx0 => ?inverse, gfDiv_zero t x,
    fun hy0 => ?quotient, fun hx0 => ?powers⟩
  case comm => exact M.inj hxy (M.mul_lt hy hx) (by rw [M.mul hx hy, M.mul hy hx, mul_comm])
  case assoc =>
    exact M.inj (M.mul_lt hxy hz) (M.mul_lt hx hyz)
      (by rw [M.mul hxy hz, M.mul hx hy, M.mul hx hyz, M.mul hy hz, mul_assoc])
  case one => exact M.inj (M.mul_lt M.one_lt hx) hx (by rw [M.mul M.one_lt hx, M.one, one_mul])
  case distrib =>
    exact M.inj (M.mul_lt hx (Nat.xor_lt_two_pow hy hz)) (Nat.xor_lt_two_pow hxy (M.mul_lt hx hz))
      (by rw [M.mul hx (Nat.xor_lt_two_pow hy hz), M.xor hy hz, M.xor hxy (M.mul_lt hx hz), M.mul hx hy, M.mul hx hz,
        mul_add])
  case inverse =>
    obtain ⟨u, hu, hult, hueq⟩ := M.gfInv_eq_some hx hx0
    have hprod : gfMul t x u = 1 := M.inj (M.mul_lt hx hult) M.one_lt <| by
      rw [M.mul hx hult, hueq, M.one, mul_inv_cancel₀ (mt (M.toF_eq_zero_iff hx).1 hx0)]
    refine ⟨u, hu, hult, hprod, fun v hv hvx => ?_⟩
    have hcomm : ∀ w, w < 2 ^ t.m → gfMul t x w = gfMul t w x := fun w hw =>
      M.inj (M.mul_lt hx hw) (M.mul_lt hw hx) (by rw [M.mul hx hw, M.mul hw hx, mul_comm])
    exact M.eq_of_gfMul_eq hv hult hx hx0 (by rw [← hcomm v hv, ← hcomm u hult, hvx, hprod])
  case quotient =>
    obtain ⟨q, hq, hqlt, hqeq⟩ := M.gfDiv_eq_some hx hy hy0
    have hprod : gfMul t q y = x := M.inj (M.mul_lt hqlt hy) hx <| by
      rw [M.mul hqlt hy, hqeq, div_mul_cancel₀ _ (mt (M.toF_eq_zero_iff hy).1 hy0)]
    exact ⟨q, hq, hqlt, hprod, fun v hv hvy => M.eq_of_gfMul_eq hv hqlt hy hy0 (hvy.trans hprod.symm)⟩
  case powers =>
    have hne := mt (M.toF_eq_zero_iff hx).1 hx0
    have hpow := fun p => M.toF_gfPow hx p
    obtain ⟨u, hu, hult, hueq⟩ := M.gfInv_eq_some hx hx0
    refine ⟨M.inj (hpow 0).1 M.one_lt (by rw [(hpow 0).2, zpow_zero, M.one]), ?_, fun p => ⟨?_, ?_, ?_, (hpow p).1⟩⟩
    · rw [hu, Option.some_inj]
      exact M.inj hult (hpow _).1 (by rw [hueq, (hpow _).2, zpow_neg_one])
    · exact M.inj (hpow _).1 (M.mul_lt (hpow p).1 hx)
        (by rw [(hpow _).2, M.mul (hpow p).1 hx, (hpow p).2, zpow_add_one₀ hne])
    · refine M.inj (hpow _).1 (hpow p).1 ?_
      obtain ⟨-, hlog⟩ := M.alpha_pow_logAt hx0 hx
      have hone : M.toF x ^ t.order = 1 := by
        rw [← hlog, ← pow_mul, Nat.mul_comm, pow_mul, M.alpha_pow_order, one_pow]
      rw [(hpow _).2, (hpow p).2, zpow_add₀ hne, zpow_natCast, hone, mul_one]
    · have hp0 : gfPow t x p ≠ 0 := by
        rw [ne_eq, ← M.toF_eq_zero_iff (hpow p).1, (hpow p).2]
        exact zpow_ne_zero p hne
      exact Nat.one_le_iff_ne_zero.2 hp0

/-! ### Sums -/

theorem gfSum_zero (f : Nat → Nat) : gfSum 0 f = 0 := rfl

theorem gfSum_succ (n : Nat) (f : Nat → Nat) : gfSum (n + 1) f = gfSum n f ^^^ f n := by
  rw [gfSum, List.range_succ, List.foldl_append]
  rfl

theorem gfSum_succ' (n : Nat) (f : Nat → Nat) : gfSum (n + 1) f = f 0 ^^^ gfSum n fun i => f (i + 1) := by
  induction n with
  | zero => rw [gfSum_succ, gfSum_zero, gfSum_zero, Nat.zero_xor, Nat.xor_zero]
  | succ n ih => rw [gfSum_succ, ih, gfSum_succ, Nat.xor_assoc]

theorem gfSum_congr {n : Nat} {f g : Nat → Nat} (h : ∀ i < n, f i = g i) : gfSum n f = gfSum n g := by
  induction n with
  | zero => rfl
  | succ n ih => rw [gfSum_succ, gfSum_succ, ih fun i hi => h i (by omega), h n n.lt_succ_self]

theorem gfSum_lt {b n : Nat} {f : Nat → Nat} (h : ∀ i < n, f i < 2 ^ b) : gfSum n f < 2 ^ b := by
  induction n with
  | zero => exact Nat.two_pow_pos b
  | succ n ih =>
    rw [gfSum_succ]
    exact Nat.xor_lt_two_pow (ih fun i hi => h i (by omega)) (h n n.lt_succ_self)

theorem FieldModel.toF_gfSum {t : FieldSlot} {F : Type} [Field F] (M : FieldModel t F) {n : Nat} {f : Nat → Nat}
    (h : ∀ i < n, f i < 2 ^ t.m) : M.toF (gfSum n f) = ∑ i ∈ Finset.range n, M.toF (f i) := by
  induction n with
  | zero => rw [gfSum_zero, M.zero, Finset.range_zero, Finset.sum_empty]
  | succ n ih =>
    have hlow : ∀ i < n, f i < 2 ^ t.m := fun i hi => h i (by omega)
    rw [gfSum_succ, M.xor (gfSum_lt hlow) (h n n.lt_succ_self), ih hlow, Finset.sum_range_succ]

/-! ### Polynomials, place by place (R113) -/

theorem xorLists_getD {p q : List Nat} (h : p.length = q.length) (k : Nat) :
    (xorLists p q).getD k 0 = p.getD k 0 ^^^ q.getD k 0 := by
  by_cases hk : k < p.length
  · rw [List.getD_eq_getElem _ _ (by rw [xorLists_length]; omega), List.getD_eq_getElem _ _ hk,
      List.getD_eq_getElem _ _ (h ▸ hk)]
    exact List.getElem_zipWith ..
  · rw [List.getD_eq_default _ _ (by rw [xorLists_length]; omega), List.getD_eq_default _ _ (by omega),
      List.getD_eq_default _ _ (by omega), Nat.xor_self]

theorem polyAdd_reverse_getD (p q : List Nat) (j : Nat) :
    (polyAdd p q).reverse.getD j 0 = p.reverse.getD j 0 ^^^ q.reverse.getD j 0 := by
  have hpad : ∀ (l : List Nat) (n : Nat), (List.replicate n 0 ++ l).reverse.getD j 0 = l.reverse.getD j 0 := by
    intro l n
    rw [List.reverse_append, List.reverse_replicate]
    by_cases hj : j < l.reverse.length
    · rw [List.getD_append _ _ _ _ hj]
    · rw [List.getD_append_right _ _ _ _ (Nat.le_of_not_lt hj), List.getD_eq_default l.reverse _ (Nat.le_of_not_lt hj)]
      by_cases hn : j - l.reverse.length < n
      · exact List.getD_replicate _ hn
      · exact List.getD_eq_default _ _ (by rw [List.length_replicate]; omega)
  have hlen : (List.replicate (q.length - p.length) 0 ++ p).length =
      (List.replicate (p.length - q.length) 0 ++ q).length := by
    simp only [List.length_append, List.length_replicate]
    omega
  have hrev : (polyAdd p q).reverse = xorLists (List.replicate (q.length - p.length) 0 ++ p).reverse
      (List.replicate (p.length - q.length) 0 ++ q).reverse :=
    List.reverse_zipWith hlen
  rw [hrev, xorLists_getD (by rw [List.length_reverse, List.length_reverse, hlen]), hpad, hpad]

theorem polyMul_getD (t : FieldSlot) (p : List Nat) {q : List Nat} (hq : q ≠ []) (k : Nat) :
    (polyMul t p q).getD k 0 = gfSum p.length fun i =>
      if i ≤ k ∧ k - i < q.length then gfMul t (p.getD i 0) (q.getD (k - i) 0) else 0 := by
  have hpos : 1 ≤ q.length := List.length_pos_iff.2 hq
  induction p generalizing k with
  | nil =>
    rw [polyMul, List.length_nil, gfSum_zero]
    by_cases hk : k < q.length - 1
    · exact List.getD_replicate _ hk
    · exact List.getD_eq_default _ _ (by rw [List.length_replicate]; omega)
  | cons a p ih =>
    have hlen : (q.map (fun b => gfMul t a b) ++ List.replicate p.length 0).length = (0 :: polyMul t p q).length := by
      rw [List.length_append, List.length_map, List.length_replicate, List.length_cons, polyMul_length t p q hq]
      omega
    have hfirst : (q.map (fun b => gfMul t a b) ++ List.replicate p.length 0).getD k 0 =
        if 0 ≤ k ∧ k - 0 < q.length then gfMul t ((a :: p).getD 0 0) (q.getD (k - 0) 0) else 0 := by
      rw [Nat.sub_zero]
      by_cases hk : k < q.length
      · rw [if_pos ⟨Nat.zero_le k, hk⟩, List.getD_append _ _ _ _ (by rwa [List.length_map]),
          List.getD_eq_getElem _ _ (by rwa [List.length_map]), List.getElem_map, List.getD_cons_zero,
          List.getD_eq_getElem _ _ hk]
      · rw [if_neg fun h => hk h.2, List.getD_append_right _ _ _ _ (by rw [List.length_map]; omega), List.length_map]
        by_cases hk' : k - q.length < p.length
        · exact List.getD_replicate _ hk'
        · exact List.getD_eq_default _ _ (by rw [List.length_replicate]; omega)
    rw [polyMul, xorLists_getD hlen, hfirst, List.length_cons, gfSum_succ']
    congr 1
    cases k with
    | zero =>
      rw [List.getD_cons_zero, gfSum_congr (g := fun _ => 0) fun i _ => if_neg (by omega)]
      exact (Nat.lt_one_iff.1 (gfSum_lt (b := 0) (f := fun _ => 0) fun i _ => Nat.one_pos)).symm
    | succ k =>
      rw [List.getD_cons_succ, ih]
      refine gfSum_congr fun i _ => ?_
      simp only [Nat.add_le_add_iff_right, Nat.add_sub_add_right, List.getD_cons_succ]

theorem polyEval_concat (t : FieldSlot) (p : List Nat) (a x : Nat) :
    polyEval t (p ++ [a]) x = gfMul t (polyEval t p x) x ^^^ a := by
  rw [polyEval, List.foldl_append]
  rfl

/-- The operations of slot `t` keep below `2 ^ b` what is below it: all are symbols of 8 bits, and in a built slot those of
elements are elements. -/
structure OpsBelow (t : FieldSlot) (b : Nat) : Prop where
  one : 1 < 2 ^ b
  mul : ∀ {x y}, x < 2 ^ b → y < 2 ^ b → gfMul t x y < 2 ^ b
  pow : ∀ {x} (p : Int), x < 2 ^ b → gfPow t x p < 2 ^ b
  div : ∀ {x y q}, x < 2 ^ b → y < 2 ^ b → gfDiv t x y = some q → q < 2 ^ b

theorem expAt_lt (t : FieldSlot) (i : Nat) : t.expAt i < 2 ^ 8 := BitVec.isLt _

theorem opsBelow_symbol (t : FieldSlot) : OpsBelow t 8 where
  one := by decide
  mul _ _ := by
    unfold gfMul
    split
    · decide
    · exact expAt_lt t _
  pow p _ := by
    unfold gfPow
    split
    · split <;> decide
    · exact expAt_lt t _
  div _ _ h := by
    unfold gfDiv at h
    split at h
    · cases h
    · split at h
      · cases h
        decide
      · cases h
        exact expAt_lt t _

theorem FieldModel.opsBelow {t : FieldSlot} {F : Type} [Field F] (M : FieldModel t F) : OpsBelow t t.m where
  one := M.one_lt
  mul := M.mul_lt
  pow p hx := M.gfPow_lt hx p
  div {x y q} hx hy h := by
    by_cases hy0 : y = 0
    · rw [hy0, gfDiv_zero] at h
      cases h
    · obtain ⟨q', hq, hlt, -⟩ := M.gfDiv_eq_some hx hy hy0
      rw [hq] at h
      cases h
      exact hlt

theorem OpsBelow.polyEval {t : FieldSlot} {b : Nat} (ops : OpsBelow t b) {p : List Nat} {x : Nat}
    (hp : ∀ a ∈ p, a < 2 ^ b) (hx : x < 2 ^ b) : polyEval t p x < 2 ^ b := by
  induction p using List.reverseRecOn with
  | nil => exact Nat.two_pow_pos _
  | append_singleton p a ih =>
    have ha := hp a (by simp)
    rw [polyEval_concat]
    exact Nat.xor_lt_two_pow (ops.mul (ih fun c hc => hp c (List.mem_append_left _ hc)) hx) ha

namespace FieldModel

variable {t : FieldSlot} {F : Type} [Field F] (M : FieldModel t F)

include M

/-- Horner's value is the sum of the terms (R113). -/
theorem toF_polyEval {p : List Nat} {x : Nat} (hp : ∀ a ∈ p, a < 2 ^ t.m) (hx : x < 2 ^ t.m) :
    M.toF (polyEval t p x) = ∑ i ∈ Finset.range p.length, M.toF (p.getD i 0) * M.toF x ^ (p.length - 1 - i) := by
  induction p using List.reverseRecOn with
  | nil => simpa [polyEval] using M.zero
  | append_singleton p a ih =>
    have ha := hp a (by simp)
    have hp' : ∀ b ∈ p, b < 2 ^ t.m := fun b hb => hp b (List.mem_append_left _ hb)
    have hval := M.opsBelow.polyEval hp' hx
    rw [polyEval_concat, M.xor (M.mul_lt hval hx) ha, M.mul hval hx, ih hp', List.length_append, List.length_singleton,
      Finset.sum_range_succ, Finset.sum_mul]
    congr 1
    · refine Finset.sum_congr rfl fun i hi => ?_
      have hi := Finset.mem_range.1 hi
      rw [List.getD_append _ _ _ _ hi, mul_assoc, ← pow_succ]
      congr 2
      omega
    · rw [List.getD_append_right _ _ _ _ le_rfl]
      simp

end FieldModel

/-- Settles O27. -/
theorem polynomialHelpers : Obligations.PolynomialHelpers := by
  refine ⟨fun p q => ⟨polyAdd_length p q, polyAdd_reverse_getD p q⟩,
    fun t p q _ hq => ⟨polyMul_length t p q hq, polyMul_getD t p hq⟩, fun t p x ht hv hp hx => ?_⟩
  obtain ⟨F, _, ⟨M⟩⟩ := (FieldSlot.built ht hv).exists_model
  have hget : ∀ i < p.length, p.getD i 0 < 2 ^ t.m := fun i hi => by
    rw [List.getD_eq_getElem _ _ hi]
    exact hp _ (List.getElem_mem hi)
  have hterm : ∀ i < p.length, gfMul t (p.getD i 0) (gfPow t x ((p.length : Int) - 1 - (i : Int))) < 2 ^ t.m :=
    fun i hi => M.mul_lt (hget i hi) (M.gfPow_lt hx _)
  refine M.inj (M.opsBelow.polyEval hp hx) (gfSum_lt hterm) ?_
  rw [M.toF_polyEval hp hx, M.toF_gfSum hterm]
  refine Finset.sum_congr rfl fun i hi => ?_
  have hi := Finset.mem_range.1 hi
  rw [M.mul (hget i hi) (M.gfPow_lt hx _), (M.toF_gfPow hx _).2, ← zpow_natCast]
  congr 2
  omega

end Sys2Proof.Machine
end

section
/-! PROOFS. How large the values are that the commands write: below `2 ^ b` wherever the operations of the slot keep below
it, so symbols of 8 bits in any slot and elements in a built one. -/

namespace Sys2Proof.Machine

open Sys2Proof.Config

/-! ### Lists -/

section Lists

variable {b : Nat} {p q : List Nat}

theorem xorLists_lt (hp : ∀ x ∈ p, x < 2 ^ b) (hq : ∀ x ∈ q, x < 2 ^ b) : ∀ x ∈ xorLists p q, x < 2 ^ b := by
  intro x hx
  obtain ⟨i, hi, rfl⟩ := List.mem_iff_getElem.1 hx
  have hget : (xorLists p q)[i] = _ := List.getElem_zipWith ..
  rw [hget]
  exact Nat.xor_lt_two_pow (hp _ (List.getElem_mem _)) (hq _ (List.getElem_mem _))

theorem replicate_zero_lt (b n : Nat) : ∀ x ∈ List.replicate n 0, x < 2 ^ b := fun _ hx =>
  List.eq_of_mem_replicate hx ▸ Nat.two_pow_pos b

theorem append_lt (hp : ∀ x ∈ p, x < 2 ^ b) (hq : ∀ x ∈ q, x < 2 ^ b) : ∀ x ∈ p ++ q, x < 2 ^ b :=
  List.forall_mem_append.2 ⟨hp, hq⟩

theorem cons_lt {a : Nat} (ha : a < 2 ^ b) (hp : ∀ x ∈ p, x < 2 ^ b) : ∀ x ∈ a :: p, x < 2 ^ b :=
  List.forall_mem_cons.2 ⟨ha, hp⟩

theorem getD_lt (hp : ∀ x ∈ p, x < 2 ^ b) (i : Nat) : p.getD i 0 < 2 ^ b := by
  by_cases hi : i < p.length
  · rw [List.getD_eq_getElem _ _ hi]
    exact hp _ (List.getElem_mem hi)
  · rw [List.getD_eq_default _ _ (Nat.le_of_not_lt hi)]
    exact Nat.two_pow_pos b

theorem polyAdd_lt (hp : ∀ x ∈ p, x < 2 ^ b) (hq : ∀ x ∈ q, x < 2 ^ b) : ∀ x ∈ polyAdd p q, x < 2 ^ b :=
  xorLists_lt (append_lt (replicate_zero_lt b _) hp) (append_lt (replicate_zero_lt b _) hq)

theorem xorPad_lt (hp : ∀ x ∈ p, x < 2 ^ b) (hq : ∀ x ∈ q, x < 2 ^ b) : ∀ x ∈ xorPad p q, x < 2 ^ b :=
  xorLists_lt (append_lt hp (replicate_zero_lt b _)) (append_lt hq (replicate_zero_lt b _))

theorem xorPrefix_lt (hp : ∀ x ∈ p, x < 2 ^ b) (hq : ∀ x ∈ q, x < 2 ^ b) : ∀ x ∈ xorPrefix p q, x < 2 ^ b := by
  induction p generalizing q with
  | nil => cases q <;> simp [xorPrefix]
  | cons o out ih =>
    obtain ⟨ho, hout⟩ := List.forall_mem_cons.1 hp
    cases q with
    | nil => exact hp
    | cons x xs =>
      obtain ⟨hx, hxs⟩ := List.forall_mem_cons.1 hq
      exact cons_lt (Nat.xor_lt_two_pow ho hx) (ih hout hxs)

theorem mem_of_mem_stripLeading {x : Nat} (h : x ∈ stripLeading p) : x ∈ p := by
  induction p using stripLeading.induct with
  | case1 => exact h
  | case2 y => exact h
  | case3 y rest ih =>
    rw [stripLeading, if_pos rfl] at h
    exact List.mem_cons_of_mem _ (ih h)
  | case4 y z rest hy =>
    rwa [stripLeading, if_neg hy] at h

end Lists

/-! ### Polynomials and codes -/

namespace OpsBelow

variable {t : FieldSlot} {b : Nat} (ops : OpsBelow t b) {p q : List Nat}

include ops

theorem polyScale {c : Nat} (hp : ∀ x ∈ p, x < 2 ^ b) (hc : c < 2 ^ b) : ∀ x ∈ polyScale t p c, x < 2 ^ b := by
  intro x hx
  obtain ⟨a, ha, rfl⟩ := List.mem_map.1 hx
  exact ops.mul (hp a ha) hc

theorem scaleLeft {c : Nat} (hp : ∀ x ∈ p, x < 2 ^ b) (hc : c < 2 ^ b) :
    ∀ x ∈ p.map (fun a => gfMul t c a), x < 2 ^ b := by
  intro x hx
  obtain ⟨a, ha, rfl⟩ := List.mem_map.1 hx
  exact ops.mul hc (hp a ha)

theorem polyMul (hp : ∀ x ∈ p, x < 2 ^ b) (hq : ∀ x ∈ q, x < 2 ^ b) : ∀ x ∈ polyMul t p q, x < 2 ^ b := by
  induction p with
  | nil => exact replicate_zero_lt b _
  | cons a p ih =>
    obtain ⟨ha, hp⟩ := List.forall_mem_cons.1 hp
    exact xorLists_lt (append_lt (ops.scaleLeft hq ha) (replicate_zero_lt b _)) (cons_lt (Nat.two_pow_pos b) (ih hp))

theorem rsGenpoly {a : Nat} (ha : a < 2 ^ b) (nsym fcr : Nat) : ∀ x ∈ rsGenpoly t nsym fcr a, x < 2 ^ b := by
  unfold Machine.rsGenpoly
  induction nsym with
  | zero =>
    rw [List.range_zero, List.foldl_nil]
    exact cons_lt ops.one fun _ hx => nomatch hx
  | succ n ih =>
    rw [List.range_succ, List.foldl_append]
    exact ops.polyMul ih (cons_lt ops.one (cons_lt (ops.pow _ ha) fun _ hx => nomatch hx))

theorem timesRoot {x : Nat} (hp : ∀ x ∈ p, x < 2 ^ b) (hx : x < 2 ^ b) : ∀ y ∈ timesRoot t p x, y < 2 ^ b :=
  xorLists_lt (append_lt hp (cons_lt (Nat.two_pow_pos b) fun _ hx => nomatch hx))
    (cons_lt (Nat.two_pow_pos b) (ops.polyScale hp hx))

theorem locatorOf {xs : List Nat} (hxs : ∀ x ∈ xs, x < 2 ^ b) : ∀ y ∈ locatorOf t xs, y < 2 ^ b := by
  induction xs using List.reverseRecOn with
  | nil => exact cons_lt ops.one fun _ hx => nomatch hx
  | append_singleton xs x ih =>
    obtain ⟨hxs, hx⟩ := List.forall_mem_append.1 hxs
    rw [Machine.locatorOf, List.foldl_append]
    exact ops.timesRoot (ih hxs) (hx x (List.mem_singleton_self x))

theorem discrepancy {syn : List Nat} (hsyn : ∀ x ∈ syn, x < 2 ^ b) {x : BmState} (hlo : ∀ y ∈ x.lo, y < 2 ^ b) (k : Nat) :
    discrepancy t syn x k < 2 ^ b := by
  refine List.foldlRecOn _ _ (motive := fun acc => acc < 2 ^ b) (Nat.two_pow_pos b) fun acc hacc j _ => ?_
  split
  · exact Nat.xor_lt_two_pow hacc (ops.mul (getD_lt hlo j) (getD_lt hsyn _))
  · exact hacc

theorem bmStep {syn : List Nat} (hsyn : ∀ x ∈ syn, x < 2 ^ b) (rho : Nat) {x : BmState} (hlo : ∀ y ∈ x.lo, y < 2 ^ b)
    (haux : ∀ y ∈ x.aux, y < 2 ^ b) (k : Nat) :
    (∀ y ∈ (bmStep t syn rho x k).lo, y < 2 ^ b) ∧ ∀ y ∈ (bmStep t syn rho x k).aux, y < 2 ^ b := by
  have hdelta := ops.discrepancy hsyn hlo k
  have hshift := cons_lt (Nat.two_pow_pos b) haux
  have hnext := xorPad_lt hlo (ops.polyScale hshift hdelta)
  have hinv : (gfInv t (Machine.discrepancy t syn x k)).getD 0 < 2 ^ b := by
    cases h : gfInv t (Machine.discrepancy t syn x k) with
    | none => exact Nat.two_pow_pos b
    | some u => exact ops.div ops.one hdelta h
  unfold Machine.bmStep
  dsimp only
  split
  · exact ⟨hlo, hshift⟩
  · split
    · exact ⟨hnext, ops.polyScale hlo hinv⟩
    · exact ⟨hnext, hshift⟩

theorem foldl_bmStep {syn : List Nat} (hsyn : ∀ x ∈ syn, x < 2 ^ b) (rho : Nat) (ks : List Nat) {x : BmState}
    (hlo : ∀ y ∈ x.lo, y < 2 ^ b) (haux : ∀ y ∈ x.aux, y < 2 ^ b) :
    ∀ y ∈ (ks.foldl (Machine.bmStep t syn rho) x).lo, y < 2 ^ b := by
  induction ks generalizing x with
  | nil => exact hlo
  | cons k ks ih =>
    obtain ⟨hlo', haux'⟩ := ops.bmStep hsyn rho hlo haux k
    exact ih hlo' haux'

theorem magnitude {lo om : List Nat} (hlo : ∀ x ∈ lo, x < 2 ^ b) (hom : ∀ x ∈ om, x < 2 ^ b) (fcr : Nat) {x y : Nat}
    (hx : x < 2 ^ b) (h : magnitude t fcr lo om x = some y) : y < 2 ^ b := by
  unfold Machine.magnitude at h
  split at h
  next => cases h
  next xi hxi =>
    have hxi : xi < 2 ^ b := ops.div ops.one hx hxi
    refine ops.div (ops.mul (ops.pow _ hx) (gfSum_lt fun j _ => ops.mul (getD_lt hom j) (ops.pow _ hxi)))
      (gfSum_lt fun j _ => ?_) h
    split
    · exact ops.mul (getD_lt hlo j) (ops.pow _ hxi)
    · exact Nat.two_pow_pos b

variable {k : RsSlot} (ha : k.a < 2 ^ b)

include ha

theorem locatorValue (p n : Nat) : locatorValue t k p n < 2 ^ b := ops.pow _ ha

theorem locatorOf_positions (pos : List Nat) (n : Nat) :
    ∀ y ∈ Machine.locatorOf t (pos.map fun p => Machine.locatorValue t k p n), y < 2 ^ b :=
  ops.locatorOf fun _ hx => by
    obtain ⟨p, -, rfl⟩ := List.mem_map.1 hx
    exact ops.locatorValue ha p n

theorem rsSyndromes {recv : List Nat} (hrecv : ∀ x ∈ recv, x < 2 ^ b) : ∀ x ∈ rsSyndromes t k recv, x < 2 ^ b := by
  intro x hx
  obtain ⟨i, -, rfl⟩ := List.mem_map.1 hx
  exact ops.polyEval hrecv (ops.pow _ ha)

theorem rsEloc {syn : List Nat} (hsyn : ∀ x ∈ syn, x < 2 ^ b) (eras : List Nat) (n : Nat) :
    ∀ x ∈ rsEloc t k syn eras n, x < 2 ^ b := by
  intro x hx
  have hlo := ops.locatorOf_positions ha eras n
  exact ops.foldl_bmStep hsyn _ _ hlo hlo x (List.mem_reverse.1 (mem_of_mem_stripLeading hx))

theorem applyErrata {lo om : List Nat} (hlo : ∀ x ∈ lo, x < 2 ^ b) (hom : ∀ x ∈ om, x < 2 ^ b) {n : Nat}
    {pos recv out : List Nat} (hrecv : ∀ x ∈ recv, x < 2 ^ b) (h : applyErrata t k lo om n pos recv = some out) :
    ∀ x ∈ out, x < 2 ^ b := by
  induction pos generalizing recv with
  | nil =>
    cases h
    exact hrecv
  | cons p rest ih =>
    rw [Machine.applyErrata] at h
    split at h
    next => cases h
    next y hy =>
      have hy : y < 2 ^ b := ops.magnitude hlo hom _ (ops.locatorValue ha p n) hy
      refine ih (fun x hx => ?_) h
      obtain ⟨i, hi, rfl⟩ := List.mem_iff_getElem.1 hx
      rw [List.getElem_modify]
      split
      · exact Nat.xor_lt_two_pow (hrecv _ (List.getElem_mem _)) hy
      · exact hrecv _ (List.getElem_mem _)

theorem rsCorr {recv syn pos out : List Nat} (hrecv : ∀ x ∈ recv, x < 2 ^ b) (hsyn : ∀ x ∈ syn, x < 2 ^ b)
    (h : rsCorr t k recv syn pos = some out) : ∀ x ∈ out, x < 2 ^ b := by
  have hlo := ops.locatorOf_positions ha pos recv.length
  exact ops.applyErrata ha hlo (fun x hx => ops.polyMul hsyn hlo x (List.mem_of_mem_take hx)) hrecv h

theorem rsDecode {recv eras : List Nat} {d : Decoded} (hrecv : ∀ x ∈ recv, x < 2 ^ b)
    (h : rsDecode t k recv eras = .ok d) : (∀ x ∈ d.msg, x < 2 ^ b) ∧ ∀ x ∈ d.par, x < 2 ^ b := by
  have hsplit : ∀ word count, (∀ x ∈ word, x < 2 ^ b) →
      (∀ x ∈ (splitWord k.nsym word count).msg, x < 2 ^ b) ∧ ∀ x ∈ (splitWord k.nsym word count).par, x < 2 ^ b :=
    fun word count hw => ⟨fun x hx => hw x (List.mem_of_mem_take hx), fun x hx => hw x (List.mem_of_mem_drop hx)⟩
  obtain ⟨-, rfl⟩ | ⟨-, -, pos, cor, -, hcor, -, rfl⟩ := rsDecode_ok_cases h
  · exact hsplit _ _ hrecv
  · exact hsplit _ _ (ops.rsCorr ha hrecv (ops.rsSyndromes ha hrecv) hcor)

omit ha

theorem rsDivide {g : List Nat} (hg : ∀ x ∈ g, x < 2 ^ b) (steps : Nat) {out : List Nat} (hout : ∀ x ∈ out, x < 2 ^ b) :
    ∀ x ∈ rsDivide t g steps out, x < 2 ^ b := by
  induction steps generalizing out with
  | zero => exact hout
  | succ steps ih =>
    cases out with
    | nil => exact hout
    | cons c out =>
      obtain ⟨hc, hout⟩ := List.forall_mem_cons.1 hout
      refine ih ?_
      split
      · exact hout
      · exact xorPrefix_lt hout (ops.polyScale hg hc)

theorem rsParity (hgen : ∀ j, k.genAt j < 2 ^ b) {msg : List Nat} (hmsg : ∀ x ∈ msg, x < 2 ^ b) :
    ∀ x ∈ rsParity t k msg, x < 2 ^ b :=
  ops.rsDivide (fun _ hx => by
    obtain ⟨j, -, rfl⟩ := List.mem_map.1 hx
    exact hgen (j + 1)) _ (append_lt hmsg (replicate_zero_lt b _))

theorem rsEncode (hgen : ∀ j, k.genAt j < 2 ^ b) {msg : List Nat} (hmsg : ∀ x ∈ msg, x < 2 ^ b) :
    ∀ x ∈ rsEncode t k msg, x < 2 ^ b :=
  append_lt hmsg (ops.rsParity hgen hmsg)

end OpsBelow

theorem RsSlot.a_lt_symbol (k : RsSlot) : k.a < 2 ^ 8 := BitVec.isLt _

theorem RsSlot.genAt_lt_symbol (k : RsSlot) (j : Nat) : k.genAt j < 2 ^ 8 := BitVec.isLt _

/-! ### Cells -/

theorem lt_cell_of_lt_symbol {xs : List Nat} (h : ∀ x ∈ xs, x < 2 ^ 8) : ∀ x ∈ xs, x < 2 ^ 16 := fun x hx =>
  (h x hx).trans (by decide)

theorem lt_cell_of_bits {xs : List Nat} (h : ∀ x ∈ xs, x < 2) : ∀ x ∈ xs, x < 2 ^ 16 := fun x hx =>
  (h x hx).trans (by decide)

theorem vec_lt_cell (s : State) (bid : BufId) : ∀ x ∈ s.vec bid, x < 2 ^ 16 := by
  intro x hx
  obtain ⟨c, -, rfl⟩ := List.mem_map.1 hx
  exact c.isLt

theorem bitsOf_lt (w L : Nat) : ∀ x ∈ bitsOf w L, x < 2 := by
  intro x hx
  obtain ⟨i, -, rfl⟩ := List.mem_map.1 hx
  exact Bool.toNat_lt _

theorem convEncode_lt (tapsA tapsB K init : Nat) (bits : List Nat) :
    ∀ x ∈ (convEncode tapsA tapsB K init bits).1, x < 2 := by
  induction bits generalizing init with
  | nil => exact fun _ hx => nomatch hx
  | cons b bits ih =>
    rw [convEncode_cons_fst]
    exact List.forall_mem_cons.2 ⟨Bool.toNat_lt _, List.forall_mem_cons.2 ⟨Bool.toNat_lt _, ih _⟩⟩

theorem puncture_le (t : SchedSlot) {bits : List Nat} (h : ∀ x ∈ bits, x < 2) : ∀ x ∈ puncture t bits, x ≤ 2 := by
  intro x hx
  rw [puncture, punctureFrom_eq_mapIdx] at hx
  obtain ⟨i, hi, rfl⟩ := List.mem_mapIdx.1 hx
  split
  · exact (h _ (List.getElem_mem hi)).le
  · exact le_rfl

theorem depunctureFrom_le (t : SchedSlot) (n i : Nat) {kept : List Nat} (h : ∀ x ∈ kept, x < 2) :
    ∀ x ∈ depunctureFrom t n i kept, x ≤ 2 := by
  induction n generalizing i kept with
  | zero => exact fun _ hx => nomatch hx
  | succ n ih =>
    have htail : ∀ x ∈ kept.tail, x < 2 := fun x hx => h x (List.mem_of_mem_tail hx)
    rw [depunctureFrom]
    split
    · refine List.forall_mem_cons.2 ⟨?_, ih _ htail⟩
      cases kept with
      | nil => exact Nat.zero_le _
      | cons b kept => exact (h b List.mem_cons_self).le
    · exact List.forall_mem_cons.2 ⟨le_rfl, ih _ h⟩

theorem reverseGroups_lt (groups : Nat) {bits : List Nat} (h : ∀ x ∈ bits, x < 2) :
    ∀ x ∈ reverseGroups groups bits, x < 2 := by
  induction groups generalizing bits with
  | zero => exact h
  | succ groups ih =>
    exact List.forall_mem_append.2 ⟨bitsOf_lt _ 8, ih fun x hx => h x (List.mem_of_mem_drop hx)⟩

theorem normalize_lt {bits : List Nat} (h : ∀ x ∈ bits, x < 2) (swapped : Nat) : ∀ x ∈ normalize bits swapped, x < 2 := by
  unfold normalize
  split
  · exact h
  · exact reverseGroups_lt _ h

end Sys2Proof.Machine
end

section
/-! PROOFS. Completion: on legal operands a command passes its checks and ends having written its outputs alone. -/

namespace Sys2Proof.Machine

open Sys2Proof.Config

/-! ### What is left when outputs have been written -/

section Outputs

variable {s : State} {xs : List Nat}

theorem length_lt_of_le_VLEN {n : Nat} (h : n ≤ VLEN) : n < 2 ^ 32 := Nat.lt_of_le_of_lt h (by decide)

/-- `R` alone. -/
theorem ended_writeR (hlen : xs.length ≤ VLEN) (hxs : ∀ x ∈ xs, x < 2 ^ 16) :
    EndsOk s (endWith .ok (writeOut .r xs s)) ∧ (endWith .ok (writeOut .r xs s)).res = s.res ∧
      WritesR s (endWith .ok (writeOut .r xs s)) xs ∧ (endWith .ok (writeOut .r xs s)).lenOf .r = xs.length := by
  have hw : WritesR s (endWith .ok (writeOut .r xs s)) xs := writesR_endWith (length_lt_of_le_VLEN hlen) hxs ⟨_, rfl⟩
  exact ⟨endsOk_endWith rfl rfl, rfl, hw, hw.output.len⟩

/-- `R` and `RES[0]`. -/
theorem ended_writeR_setRes0 {n : Nat} (hlen : xs.length ≤ VLEN) (hxs : ∀ x ∈ xs, x < 2 ^ 16) (hn : n < 2 ^ 32) :
    EndsOk s (endWith .ok ((writeOut .r xs s).setRes0 n)) ∧ WritesR s (endWith .ok ((writeOut .r xs s).setRes0 n)) xs ∧
      (endWith .ok ((writeOut .r xs s).setRes0 n)).lenOf .r = xs.length ∧
      (endWith .ok ((writeOut .r xs s).setRes0 n)).res.r0.toNat = n ∧
      KeepsRes123 s (endWith .ok ((writeOut .r xs s).setRes0 n)) := by
  have hw : WritesR s (endWith .ok ((writeOut .r xs s).setRes0 n)) xs :=
    writesR_endWith (length_lt_of_le_VLEN hlen) hxs ⟨_, rfl⟩
  exact ⟨endsOk_endWith rfl rfl, hw, hw.output.len, word32_toNat n hn, ⟨rfl, rfl, rfl⟩⟩

/-- A command that completes with `RES[0]` as its one output. -/
theorem completes_setRes0 {r : Result} {v : Nat} (h : r = complete (s.setRes0 v)) (hv : v < 2 ^ 32) :
    ∃ t, r = .next t ∧ OnlyRes0 s t v :=
  ⟨_, h, onlyRes0_setRes0 hv⟩

theorem keepsMemory_endWith {k : Cond} {u : State} (h : ∀ bid, u.buf bid = s.buf bid) : KeepsMemory s (endWith k u) :=
  fun bid => keepsBuffer_of_buf_eq ((endWith_buf k u bid).trans (h bid))

end Outputs

/-! ### Field Engine (R102, R108 to R112, R115, R116) -/

section Build

variable {s : State} {f : Nat} (hf : f < NF) (hv : s.fields[f].valid = false)
  (hgood : ¬ badFieldOperands s.arg0 s.arg1 s.arg2 = true)

include hv hgood

/-- What a build that fails leaves: the slot's tables unspecified, the core halted. -/
theorem execGfBuild_fails (h : buildTables s.arg0 s.arg1 s.arg2 = none) :
    execGfBuild f s =
      raise .configError { s with fields := s.fields.set f { s.fields[f] with exp := [], log := [] } hf } :=
  withUnbuilt_passed hf hv (check_passed hgood (by rw [h]))

theorem execGfBuild_completes {exp log : List Symbol} (h : buildTables s.arg0 s.arg1 s.arg2 = some (exp, log)) :
    execGfBuild f s =
      complete { s with
        fields := s.fields.set f
          { valid := true
            m := s.arg2
            prim := BitVec.ofNat 9 s.arg0
            gen := BitVec.ofNat 8 s.arg1
            exp := exp
            log := log } hf } :=
  withUnbuilt_passed hf hv (check_passed hgood (by rw [h]))

end Build

/-- Settles O28: whether the build succeeds is whether the powers cycle. -/
theorem fieldBuildCompletesOrHalts : Obligations.FieldBuildCompletesOrHalts := by
  intro s f hf hv prim gen m inRange
  have hrange : badFieldOperands prim gen m = false ↔ inRange := badFieldOperands_eq_false_iff
  have hothers : ∀ (x : FieldSlot) g (hg : g < NF), g ≠ f → (s.fields.set f x hf)[g] = s.fields[g] := fun x g hg hne =>
    Vector.getElem_set_ne hf hg hne.symm
  have hmemory : ∀ (k : Cond) (x : FieldSlot), KeepsMemory s (endWith k { s with fields := s.fields.set f x hf }) :=
    fun k x => keepsMemory_endWith fun bid => by cases bid <;> rfl
  refine ⟨fun hin hcycle => ?built, fun hout => ?range, fun hin hno => ?halts⟩
  case range =>
    exact withUnbuilt_passed hf hv (check_failed (Bool.eq_true_of_not_eq_false (mt hrange.1 hout)))
  case halts =>
    have hnone : buildTables prim gen m = none := by
      cases htab : buildTables prim gen m with
      | none => rfl
      | some tables => exact absurd (buildTables_eq_some_iff.1 htab).1 hno
    refine ⟨_, execGfBuild_fails hf hv (by rw [hrange.2 hin]; decide) hnone, endsWith_endWith rfl rfl, ?_,
      ⟨rfl, rfl, rfl, rfl, rfl, rfl⟩, rfl, hmemory _ _, rfl, rfl, rfl, hothers _, ?_⟩
    · rw [endWith_status, status_endWith_halted]
      exact Bool.or_true _
    · rw [endWith_fields, Vector.getElem_set_self]
      exact hv
  case built =>
    obtain ⟨hm, hm8, hlo, hhi, hg, hg'⟩ := hin
    have hprimitive : Primitive prim gen m := ⟨hm, hlo, hhi, hg, hg', hcycle⟩
    have hgood := hrange.2 ⟨hm, hm8, hlo, hhi, hg, hg'⟩
    obtain ⟨hprim, hgen⟩ := fieldOperands_fit hgood
    have hbuilt : FieldSlot.Built
        { valid := true
          m := m
          prim := BitVec.ofNat 9 prim
          gen := BitVec.ofNat 8 gen
          exp := (powers prim gen m ++ powers prim gen m).map (BitVec.ofNat 8)
          log := (List.range (2 ^ m - 1)).map fun k => BitVec.ofNat 8 ((powers prim gen m).idxOf (k + 1)) } := by
      refine ⟨?_, hm8, ?_, ?_⟩
      all_goals simp only [hprim, hgen]
      exact hprimitive
    have hexp := fun i hi => hbuilt.expAt_eq (i := i) hi
    have hlog := fun i hi => hbuilt.logAt_powerOf (i := i) hi
    simp only [hprim, hgen] at hexp hlog
    refine ⟨_, execGfBuild_completes hf hv (by rw [hgood]; decide) (buildTables_eq_some_iff.2 ⟨hcycle, rfl⟩),
      endsOk_endWith rfl rfl, ⟨rfl, rfl, rfl, rfl, rfl, rfl⟩, rfl, hmemory _ _, rfl, rfl, rfl, hothers _, ?_⟩
    simp only [endWith_fields, Vector.getElem_set_self]
    exact ⟨trivial, rfl, hprim, hgen, fun i hi => by rw [hexp i hi, hprimitive.powerOf_mod], hlog⟩

theorem gfMul_lt_word (t : FieldSlot) (x y : Nat) : gfMul t x y < 2 ^ 32 := by
  unfold gfMul
  split
  · decide
  · exact (expAt_lt t _).trans (by decide)

theorem logAt_lt_word (t : FieldSlot) (x : Nat) : t.logAt x < 2 ^ 32 := by
  cases x with
  | zero => exact (BitVec.isLt (Config.freeLog 0)).trans (by decide)
  | succ k => exact (BitVec.isLt (t.log.getD k (freeLog (k + 1)))).trans (by decide)

theorem not_notElements {t : FieldSlot} {x y : Nat} (hx : x < 2 ^ t.m) (hy : y < 2 ^ t.m) :
    ¬ notElements t x y = true := by
  rw [notElements_iff]
  omega

/-- Settles O29. -/
theorem fieldScalarCommandsComplete : Obligations.FieldScalarCommandsComplete := by
  intro s f hf hv
  refine ⟨fun hx hy => ⟨?add, ?mul⟩, fun hi => ?exp, fun hlo hhi => ?log⟩
  all_goals dsimp only [exec]
  case add =>
    exact completes_setRes0 (withBuilt_passed hf hv (check_passed (not_notElements hx hy) rfl))
      (Nat.xor_lt_two_pow s.arg.r0.isLt s.arg.r1.isLt)
  case mul =>
    exact completes_setRes0 (withBuilt_passed hf hv (check_passed (not_notElements hx hy) rfl)) (gfMul_lt_word _ _ _)
  case exp =>
    exact completes_setRes0 (withBuilt_passed hf hv (check_passed (Nat.not_lt_of_le hi) rfl))
      ((expAt_lt _ _).trans (by decide))
  case log =>
    refine completes_setRes0 (withBuilt_passed hf hv (check_passed ?_ rfl)) (logAt_lt_word _ _)
    simp only [Bool.or_eq_true, decide_eq_true_eq]
    omega

section Division

variable {s : State} {f : Nat} (hf : f < NF) (hv : s.fields[f].valid = true) (hx : s.arg0 < 2 ^ s.fields[f].m)
  (hy : s.arg1 < 2 ^ s.fields[f].m)

include hv hx hy

theorem execGfDiv_completes {z : Nat} (h : gfDiv s.fields[f] s.arg0 s.arg1 = some z) :
    execGfDiv f s = complete (s.setRes0 z) :=
  withBuilt_passed hf hv (check_passed (not_notElements hx hy) (by rw [h]))

theorem execGfDiv_fails (h : gfDiv s.fields[f] s.arg0 s.arg1 = none) : execGfDiv f s = raise .divisionByZero s :=
  withBuilt_passed hf hv (check_passed (not_notElements hx hy) (by rw [h]))

end Division

/-- Settles O30. -/
theorem fieldDivisionCompletes : Obligations.FieldDivisionCompletes := by
  intro s f hf hs hv hx hy
  have hbuilt : FieldSlot.Built s.fields[f] := FieldSlot.built (hs.fieldSlots ⟨f, hf⟩) hv
  obtain ⟨F, _, ⟨M⟩⟩ := hbuilt.exists_model
  refine ⟨fun hy0 => ?quotient, fun hy0 => ?zero⟩
  case quotient =>
    obtain ⟨q, hq, hlt, heq⟩ := M.gfDiv_eq_some hx hy hy0
    have hword : q < 2 ^ 32 := (hlt.trans_le hbuilt.two_pow_le).trans (by decide)
    refine ⟨_, q, execGfDiv_completes hf hv hx hy hq, onlyRes0_setRes0 hword, hlt, M.inj (M.mul_lt hlt hy) hx ?_⟩
    exact (M.mul hlt hy).trans (by rw [heq, div_mul_cancel₀ _ (mt (M.toF_eq_zero_iff hy).1 hy0)])
  case zero => exact execGfDiv_fails hf hv hx hy (by rw [hy0, gfDiv_zero])

/-- Settles O31. -/
theorem fieldVectorCommandsComplete : Obligations.FieldVectorCommandsComplete := by
  intro s f hf hv ha ha' hb hb' hca hcb
  have hpa : ¬ lengthOutside 1 VLEN (s.lenOf .a) = true := lengthOutside_eq_false_iff.2 ⟨ha, ha'⟩
  have hpb : ¬ lengthOutside 1 VLEN (s.lenOf .b) = true := lengthOutside_eq_false_iff.2 ⟨hb, hb'⟩
  have hne : s.vec .b ≠ [] := by
    rw [← List.length_pos_iff, vec_length]
    exact hb
  refine ⟨?sum, fun hab => ?product⟩
  all_goals dsimp only [exec]
  case sum =>
    have hlen : (polyAdd (s.vec .a) (s.vec .b)).length = max (s.lenOf .a) (s.lenOf .b) := by
      rw [polyAdd_length, vec_length, vec_length]
    obtain ⟨hends, hres, hw, hl⟩ := ended_writeR (s := s) (by rw [hlen]; omega)
      (polyAdd_lt (vec_lt_cell s .a) (vec_lt_cell s .b))
    exact ⟨_, withBuilt_passed hf hv (check_passed hpa (check_passed hpb (check_passed (not_someCellFrom hca)
      (check_passed (not_someCellFrom hcb) rfl)))), hends, hres, hw, hl.trans hlen⟩
  case product =>
    have hlen : (polyMul s.fields[f] (s.vec .a) (s.vec .b)).length = s.lenOf .a + s.lenOf .b - 1 := by
      rw [polyMul_length _ _ _ hne, vec_length, vec_length]
    have hcells : ∀ x ∈ polyMul s.fields[f] (s.vec .a) (s.vec .b), x < 2 ^ 16 := by
      intro x hx
      obtain ⟨i, hi, rfl⟩ := List.mem_iff_getElem.1 hx
      rw [← List.getD_eq_getElem _ 0 hi, polyMul_getD _ _ hne]
      refine gfSum_lt fun j _ => ?_
      split
      · unfold gfMul
        split
        · decide
        · exact (expAt_lt _ _).trans (by decide)
      · decide
    obtain ⟨hends, hres, hw, hl⟩ := ended_writeR (s := s) (by rw [hlen]; exact hab) hcells
    exact ⟨_, withBuilt_passed hf hv (check_passed hpa (check_passed hpb (check_passed (Nat.not_lt_of_le hab)
      (check_passed (not_someCellFrom hca) (check_passed (not_someCellFrom hcb) rfl))))), hends, hres, hw, hl.trans hlen⟩

/-! ### Builds of the BCH decoder and the Puncture Codec (R133, R193) -/

/-- Settles O36. -/
theorem codeBuildsComplete : Obligations.CodeBuildsComplete := by
  refine ⟨fun s c hc hv hpoly hn hn' he he' hd hd' => ?bch, fun s p hp hv hlo hhi hpat => ?schedule⟩
  case bch =>
    have hgood : ¬ badBchOperands s.arg0 s.arg1 s.arg2 s.arg3 = true := by
      rw [badBchOperands_iff]
      omega
    exact ⟨_, withUnbuilt_passed hc hv (check_passed hgood rfl), endsOk_endWith rfl rfl, ⟨rfl, rfl, rfl, rfl, rfl, rfl⟩,
      rfl, keepsMemory_endWith fun bid => by cases bid <;> rfl, rfl, rfl, rfl,
      fun d hd hne => Vector.getElem_set_ne hc hd hne.symm, Vector.getElem_set_self hc⟩
  case schedule =>
    have hgood : ¬ badSchedule s.arg0 s.arg1 = true := by
      rw [badSchedule_iff]
      omega
    exact ⟨_, withUnbuilt_passed hp hv (check_passed hgood rfl), endsOk_endWith rfl rfl, ⟨rfl, rfl, rfl, rfl, rfl, rfl⟩,
      rfl, keepsMemory_endWith fun bid => by cases bid <;> rfl, rfl, rfl, rfl,
      fun d hd hne => Vector.getElem_set_ne hp hd hne.symm, Vector.getElem_set_self hp⟩

/-! ### Puncture Codec (R191, R194, R196) -/

/-- Settles O52. -/
theorem encodeStreamCompletes : Obligations.EncodeStreamCompletes := by
  intro s hK hK' hA hB hinit hlen hbits
  have hgood : ¬ badEncoderOperands s.arg0 s.arg1 s.arg2 s.arg3 = true := by
    rw [badEncoderOperands_iff]
    omega
  have hlength : (convEncode s.arg0 s.arg1 s.arg3 s.arg2 (s.vec .a)).1.length = 2 * s.lenOf .a := by
    rw [convEncode_length, vec_length]
  have hreg : (convEncode s.arg0 s.arg1 s.arg3 s.arg2 (s.vec .a)).2 < 2 ^ 32 :=
    (convEncode_register_lt _ _ hinit _).trans_le (Nat.pow_le_pow_right Nat.two_pos hK')
  obtain ⟨hends, hw, hl, hr, hk⟩ := ended_writeR_setRes0 (s := s) (by rw [hlength]; exact hlen)
    (lt_cell_of_bits (convEncode_lt _ _ _ _ _)) hreg
  exact ⟨_, check_passed hgood (check_passed (Nat.not_lt_of_le hlen) (check_passed (not_someCellNotBit hbits) rfl)), hends,
    hw, hl.trans hlength, hr, hk⟩

/-- Settles O53. -/
theorem punctureCommandsComplete : Obligations.PunctureCommandsComplete := by
  intro s p hp hv hbits
  have hle : ∀ {xs : List Nat}, (∀ x ∈ xs, x ≤ 2) → ∀ x ∈ xs, x < 2 ^ 16 := fun h x hx =>
    (h x hx).trans_lt (by decide)
  refine ⟨fun hlen => ?punc, fun hL hkept => ?depunc⟩
  all_goals dsimp only [exec]
  case punc =>
    have hlength : (puncture s.sched[p] (s.vec .a)).length = s.lenOf .a := by rw [puncture_length, vec_length]
    obtain ⟨hends, hres, hw, hl⟩ := ended_writeR (s := s) (by rw [hlength]; exact hlen) (hle (puncture_le s.sched[p] hbits))
    exact ⟨_, withBuilt_passed hp hv (check_passed (Nat.not_lt_of_le hlen) (check_passed (not_someCellNotBit hbits) rfl)),
      hends, hres, hw, hl.trans hlength⟩
  case depunc =>
    have hlength := depuncture_length s.sched[p] (s.vec .a) s.arg0
    obtain ⟨hends, hres, hw, hl⟩ := ended_writeR (s := s) (hlength.trans_le hL)
      (hle (depunctureFrom_le s.sched[p] s.arg0 0 hbits))
    exact ⟨_, withBuilt_passed hp hv (check_passed (Nat.not_lt_of_le hL) (check_passed (not_not_intro hkept)
      (check_passed (not_someCellNotBit hbits) rfl))), hends, hres, hw, hl.trans hlength⟩

/-! ### Burst Framer (R206 to R212) -/

/-- Settles O57. -/
theorem framerStreamsComplete : Obligations.FramerStreamsComplete := by
  intro s hlen
  refine ⟨fun hsw hwhole hbits => ?norm, fun hS hS' hmin => ?deint⟩
  case norm =>
    have hlength : (normalize (s.vec .a) s.arg0).length = s.lenOf .a := by rw [normalize_length, vec_length]
    obtain ⟨hends, hres, hw, hl⟩ := ended_writeR (s := s) (by rw [hlength]; exact hlen)
      (lt_cell_of_bits (normalize_lt hbits s.arg0))
    exact ⟨_, check_passed (Nat.not_lt_of_le hsw) (check_passed (Nat.not_lt_of_le hlen)
      (check_passed (fun h => h.2 (hwhole h.1)) (check_passed (not_someCellNotBit hbits) rfl))), hends, hres, hw,
      hl.trans hlength⟩
  case deint =>
    have hperm := deinterleave_perm (s.vec .a) hS
    have hlength : (deinterleave (s.vec .a) s.arg0).length = s.lenOf .a := by rw [deinterleave_length _ hS, vec_length]
    have hstream : streamLen (s.lenOf .a) s.arg0 0 < 2 ^ 32 := by
      have hle : (s.lenOf .a - 0 + s.arg0 - 1) / s.arg0 ≤ s.lenOf .a - 0 + s.arg0 - 1 := Nat.div_le_self ..
      simp only [VLEN] at hlen hS'
      rw [streamLen]
      omega
    obtain ⟨hends, hw, hl, hr, hk⟩ := ended_writeR_setRes0 (s := s) (by rw [hlength]; exact hlen)
      (fun x hx => vec_lt_cell s .a x (hperm.mem_iff.1 hx)) hstream
    exact ⟨_, check_passed (streamsInRange_iff.2 ⟨hS, hS'⟩) (check_passed (Nat.not_lt_of_le hlen)
      (check_passed (Nat.not_lt_of_le hmin) rfl)), hends, hw, hl.trans hlength, hr, hk⟩

/-- The low bits of a number are a sum of powers of two. -/
theorem mod_two_pow_eq_sum (x n : Nat) :
    x % 2 ^ n = ((List.range n).map fun i => if x.testBit i then 2 ^ i else 0).sum := by
  induction n with
  | zero => rw [Nat.pow_zero, Nat.mod_one]; rfl
  | succ n ih =>
    rw [Nat.pow_succ, Nat.mod_mul, ih, List.range_succ, List.map_append, List.sum_append, List.map_singleton,
      List.sum_singleton, Nat.testBit_eq_decide_div_mod_eq]
    rcases Nat.mod_two_eq_zero_or_one (x / 2 ^ n) with h | h <;> simp [h]

/-- The reversed byte, bit by bit (R41). -/
theorem rev8_toNat_eq_sum (x : Nat) :
    (rev8 (BitVec.ofNat 8 x)).toNat = ((List.range 8).map fun j => if x.testBit j then 2 ^ (7 - j) else 0).sum := by
  have hbit : ∀ i < 8, (rev8 (BitVec.ofNat 8 x)).toNat.testBit i = x.testBit (7 - i) := fun i hi => by
    rw [BitVec.testBit_toNat, rev8_getLsbD _ hi, BitVec.getLsbD_ofNat, decide_eq_true (by omega), Bool.true_and]
  rw [← Nat.mod_eq_of_lt (rev8 (BitVec.ofNat 8 x)).isLt, mod_two_pow_eq_sum,
    List.map_congr_left fun i hi => by rw [hbit i (List.mem_range.1 hi)]]
  simp only [List.range_succ, List.range_zero, List.nil_append, List.cons_append, List.map_cons, List.map_nil, List.sum_cons,
    List.sum_nil, Nat.reduceSub]
  omega

/-- Settles O58. -/
theorem framerScalarsComplete : Obligations.FramerScalarsComplete := by
  intro s
  refine ⟨fun hlen => ?csum, fun hx => ?rev⟩
  case csum =>
    exact completes_setRes0 (check_passed (Nat.not_lt_of_le hlen) rfl) ((csum16_lt _).trans (by decide))
  case rev =>
    rw [← rev8_toNat_eq_sum s.arg0]
    exact completes_setRes0 (check_passed (Nat.not_lt_of_le hx) rfl)
      ((rev8 (BitVec.ofNat 8 s.arg0)).isLt.trans (by decide))

/-! ### `BUF.COPY` (R227) -/

theorem slice_length (s : State) (bid : BufId) (start count : Nat) : (slice s bid start count).length = count := by
  rw [slice, List.length_map, List.length_range]

theorem buf_copyInto_len (s : State) (bid : BufId) (vs : List CellWord) :
    ((copyInto bid vs s).buf bid).len = word32 vs.length := by
  rw [copyInto, buf_setBuf_same]

/-- Settles O60: the copied cells were read before any was written. -/
theorem copyCompletes : Obligations.CopyCompletes := by
  intro s src dst hsrc hdst hin ho hc hlen hfit
  have hcount := slice_length s src s.arg2 s.arg3
  have hop := copyOperands_of_inRange hsrc hdst hin ho hc
  refine ⟨endWith .ok (copyInto dst (slice s src s.arg2 s.arg3) s), ?_,
    endsOk_endWith (copyInto_status ..) (copyInto_evlog ..), keepsControl_endWith (writes_copyInto s dst _).control,
    keepsTables_endWith (by simp [keepsTables_iff]), copyInto_res .., ?_, fun i hi => ?_, fun i hi => ?_, fun bid hne => ?_⟩
  · exact (execBufCopy_eq hop).trans (check_passed (Nat.not_lt_of_le hlen) (check_passed (Nat.not_lt_of_le hfit) rfl))
  · rw [lenOf_endWith, State.lenOf, buf_copyInto_len, hcount, word32_toNat _ (length_lt_of_le_VLEN hc)]
  · rw [readCell_endWith, readCell_copyInto s dst _ i (by omega)]
    simp only [slice, List.getElem_map, List.getElem_range]
  · rw [readCell_endWith, readCell_copyInto_rest s dst _ i (by omega)]
  · refine keepsBuffer_of_buf_eq ?_
    rw [endWith_buf, copyInto, buf_setBuf_other _ _ hne]

end Sys2Proof.Machine
end

section
/-! PROOFS. The BCH decoder (42_bch.md R133 to R139): the syndrome table records the first pattern of each syndrome, the
search of `BCH.REPAIR` is a look-up in the table of two errors, and the commands complete with what the two find. -/

namespace Sys2Proof.Machine

open Sys2Proof.Config

/-! ### Words and bit strings (R14, R131) -/

theorem wordOf_lt {bits : List Nat} (hbits : ∀ b ∈ bits, b < 2) : wordOf bits < 2 ^ bits.length := by
  refine Nat.lt_pow_two_of_testBit _ fun i hi => ?_
  have h := wordOf_testBit hbits i
  rw [List.getD_eq_default _ _ (by rwa [List.length_reverse])] at h
  exact Bool.toNat_eq_zero.1 h

/-- Back from the word to the bit string. -/
theorem bitsOf_wordOf {bits : List Nat} (hbits : ∀ b ∈ bits, b < 2) : bitsOf (wordOf bits) bits.length = bits := by
  refine List.ext_getElem (bitsOf_length _ _) fun i hi hi' => ?_
  have hrev : bits.length - 1 - i < bits.reverse.length := by rw [List.length_reverse]; omega
  simp only [bitsOf, List.getElem_map, List.getElem_range]
  rw [wordOf_testBit hbits, List.getD_eq_getElem _ _ hrev, List.getElem_reverse]
  congr 1
  omega

theorem one_shiftLeft_lt {i L : Nat} (h : i < L) : 1 <<< i < 2 ^ L := by
  rw [Nat.one_shiftLeft]
  exact Nat.pow_lt_pow_right Nat.one_lt_two h

/-- Two different bits are set by sum or by union alike. -/
theorem one_shiftLeft_or {i j : Nat} (h : i < j) : (1 <<< i) ||| (1 <<< j) = (1 <<< i) ^^^ (1 <<< j) := by
  refine Nat.eq_of_testBit_eq fun p => ?_
  simp only [Nat.testBit_or, Nat.testBit_xor, Nat.one_shiftLeft, Nat.testBit_two_pow]
  by_cases hi : i = p
  · have hj : j ≠ p := by omega
    simp [hi, hj]
  · simp [hi]

theorem pair_lt {i j L : Nat} (hi : i < L) (hj : j < L) : (1 <<< i) ^^^ (1 <<< j) < 2 ^ L :=
  Nat.xor_lt_two_pow (one_shiftLeft_lt hi) (one_shiftLeft_lt hj)

/-! ### The order of the pairs (R133, R136) -/

theorem findSome?_congr {α β : Type} {l : List α} {f g : α → Option β} (h : ∀ x ∈ l, f x = g x) :
    l.findSome? f = l.findSome? g := by
  induction l with
  | nil => rfl
  | cons x rest ih =>
    rw [List.findSome?_cons, List.findSome?_cons, h x (List.mem_cons_self ..),
      ih fun y hy => h y (List.mem_cons_of_mem _ hy)]

/-- The order looks only at pairs `i < j < L`. -/
theorem firstPair_congr {L : Nat} {p q : Nat → Nat → Bool} (h : ∀ i j, i < j → j < L → p i j = q i j) :
    firstPair L p = firstPair L q := by
  unfold firstPair
  refine findSome?_congr fun i hi => ?_
  congr 1
  refine List.find?_congr fun j hj => h i j ?_ ?_
  all_goals
    rw [List.mem_range'_1] at hj
    rw [List.mem_range] at hi
    omega

theorem firstPair_bounds {L i j : Nat} {p : Nat → Nat → Bool} (h : firstPair L p = some (i, j)) :
    i < j ∧ j < L ∧ p i j = true := by
  obtain ⟨a, ha, hb⟩ := List.exists_of_findSome?_eq_some h
  obtain ⟨b, hfind, heq⟩ := Option.map_eq_some_iff.1 hb
  obtain ⟨rfl, rfl⟩ := Prod.mk.inj heq
  have hmem := List.mem_range'_1.1 (List.mem_of_find?_eq_some hfind)
  rw [List.mem_range] at ha
  exact ⟨by omega, by omega, List.find?_some hfind⟩

/-- The first pair that passes is the one before which none does. -/
theorem firstPair_eq_some {L i j : Nat} {p : Nat → Nat → Bool} (hij : i < j) (hj : j < L) (hp : p i j = true)
    (hfirst : ∀ a b, a < b → b < L → (a < i ∨ (a = i ∧ b < j)) → p a b = false) : firstPair L p = some (i, j) := by
  have hrow : ((List.range' (i + 1) (L - 1 - i)).find? fun b => p i b) = some j := by
    refine List.find?_range'_eq_some.2 ⟨hp, List.mem_range'_1.2 (by omega), fun b hb hb' => ?_⟩
    rw [hfirst i b (by omega) (by omega) (.inr ⟨rfl, hb'⟩), Bool.not_false]
  have hrows : ∀ a ∈ List.range i,
      (((List.range' (a + 1) (L - 1 - a)).find? fun b => p a b).map fun b => (a, b)) = none := by
    intro a ha
    rw [Option.map_eq_none_iff, List.find?_eq_none]
    intro b hb
    rw [List.mem_range'_1] at hb
    rw [List.mem_range] at ha
    rw [hfirst a b (by omega) (by omega) (.inl ha)]
    decide
  refine List.findSome?_eq_some_iff.2 ⟨List.range i, i, List.range' (i + 1) (L - 1 - i), ?_, ?_, hrows⟩
  · rw [← List.range'_succ, List.range_eq_range', List.range_eq_range']
    have happend := List.range'_append_1 (s := 0) (m := i) (n := L - 1 - i + 1)
    rw [Nat.zero_add] at happend
    rw [happend]
    congr 1
    omega
  · rw [hrow]
    rfl

/-! ### The syndrome table (R36, R133, R134) -/

/-- The canonical form of a table: syndromes strictly rising (log 9). -/
abbrev Rising (tab : List (Nat × SynEntry)) : Prop := tab.Pairwise fun c d => c.1 < d.1

theorem mem_recordSyn {x : Nat} {e : SynEntry} {tab : List (Nat × SynEntry)} {c : Nat × SynEntry}
    (h : c ∈ recordSyn x e tab) : c = (x, e) ∨ c ∈ tab := by
  induction tab with
  | nil => exact .inl (List.mem_singleton.1 h)
  | cons d rest ih =>
    rw [recordSyn] at h
    split_ifs at h
    · exact List.mem_cons.1 h
    · exact .inr h
    · obtain rfl | h := List.mem_cons.1 h
      · exact .inr (List.mem_cons_self ..)
      · exact (ih h).imp_right (List.mem_cons_of_mem _)

theorem Rising.recordSyn {tab : List (Nat × SynEntry)} (h : Rising tab) (x : Nat) (e : SynEntry) :
    Rising (recordSyn x e tab) := by
  induction tab with
  | nil => exact List.pairwise_singleton _ _
  | cons d rest ih =>
    obtain ⟨hd, hrest⟩ := List.pairwise_cons.1 h
    rw [Machine.recordSyn]
    split_ifs with hlt heq
    · refine List.pairwise_cons.2 ⟨fun c hc => ?_, h⟩
      obtain rfl | hc := List.mem_cons.1 hc
      · exact hlt
      · exact hlt.trans (hd c hc)
    · exact h
    · refine List.pairwise_cons.2 ⟨fun c hc => ?_, ih hrest⟩
      obtain rfl | hc := mem_recordSyn hc
      · exact Nat.lt_of_le_of_ne (Nat.le_of_not_lt hlt) (Ne.symm heq)
      · exact hd c hc

theorem synAt_eq_none_of_lt {tab : List (Nat × SynEntry)} {x : Nat} (h : ∀ c ∈ tab, x < c.1) : synAt tab x = none := by
  induction tab with
  | nil => rfl
  | cons d rest ih =>
    rw [synAt, if_neg (h d (List.mem_cons_self ..)).ne']
    exact ih fun c hc => h c (List.mem_cons_of_mem _ hc)

/-- An entry is recorded where the syndrome has none, and nowhere else. -/
theorem synAt_recordSyn {tab : List (Nat × SynEntry)} (h : Rising tab) (x : Nat) (e : SynEntry) (y : Nat) :
    synAt (recordSyn x e tab) y = (synAt tab y).or (if x = y then some e else none) := by
  induction tab with
  | nil => rfl
  | cons d rest ih =>
    obtain ⟨k, u⟩ := d
    obtain ⟨hd, hrest⟩ := List.pairwise_cons.1 h
    rw [recordSyn]
    obtain hlt | rfl | hgt := Nat.lt_trichotomy x k
    · rw [if_pos hlt, synAt]
      split
      next hxy =>
        rw [← hxy, synAt_eq_none_of_lt fun c hc => ?_, Option.none_or]
        obtain rfl | hc := List.mem_cons.1 hc
        · exact hlt
        · exact hlt.trans (hd c hc)
      next => exact (Option.or_none).symm
    · rw [if_neg (Nat.lt_irrefl x), if_pos rfl, synAt]
      split
      next => rfl
      next => exact (Option.or_none).symm
    · rw [if_neg (Nat.lt_asymm hgt), if_neg hgt.ne', synAt, synAt]
      split
      next => rfl
      next => exact ih hrest

variable {poly n weight : Nat}

theorem Rising.recordAll {tab : List (Nat × SynEntry)} (h : Rising tab) (patterns : List Nat) :
    Rising (recordAll poly n weight patterns tab) := by
  induction patterns generalizing tab with
  | nil => exact h
  | cons e rest ih => exact ih (h.recordSyn _ _)

/-- The first pattern of a syndrome wins. -/
theorem synAt_recordAll {tab : List (Nat × SynEntry)} (h : Rising tab) (patterns : List Nat) (x : Nat) :
    synAt (recordAll poly n weight patterns tab) x =
      (synAt tab x).or ((patterns.find? fun e => gf2Rem poly n e == x).map fun e =>
        { weight := BitVec.ofNat 2 weight, pattern := word32 e }) := by
  induction patterns generalizing tab with
  | nil => exact (Option.or_none ..).symm
  | cons e rest ih =>
    rw [recordAll, List.foldl_cons]
    refine (ih (h.recordSyn _ _)).trans ?_
    rw [synAt_recordSyn h, Option.or_assoc, List.find?_cons]
    congr 1
    by_cases hx : gf2Rem poly n e = x
    · rw [if_pos hx, beq_iff_eq.2 hx]
      rfl
    · rw [if_neg hx, beq_eq_false_iff_ne.2 hx, Option.none_or]

theorem mem_recordAll {patterns : List Nat} {tab : List (Nat × SynEntry)} {c : Nat × SynEntry}
    (h : c ∈ recordAll poly n weight patterns tab) :
    c ∈ tab ∨ ∃ e ∈ patterns, c = (gf2Rem poly n e, { weight := BitVec.ofNat 2 weight, pattern := word32 e }) := by
  induction patterns generalizing tab with
  | nil => exact .inl h
  | cons e rest ih =>
    obtain h | ⟨e', he', rfl⟩ := ih h
    · obtain rfl | h := mem_recordSyn h
      · exact .inr ⟨e, List.mem_cons_self .., rfl⟩
      · exact .inl h
    · exact .inr ⟨e', List.mem_cons_of_mem _ he', rfl⟩

theorem find?_singlePatterns (p : Nat → Bool) :
    (singlePatterns n).find? p = ((List.range n).find? fun i => p (1 <<< i)).map fun i => 1 <<< i :=
  List.find?_map ..

theorem find?_pairPatterns (p : Nat → Bool) :
    (pairPatterns n).find? p =
      (firstPair n fun i j => p ((1 <<< i) ||| (1 <<< j))).map fun ij => (1 <<< ij.1) ||| (1 <<< ij.2) := by
  rw [pairPatterns, List.find?_flatMap, firstPair, List.map_findSome?]
  refine findSome?_congr fun i _ => ?_
  rw [List.find?_map, Function.comp_apply, Option.map_map]
  rfl

/-- The entry of a syndrome among the single-bit patterns. -/
def singleEntry (poly n x : Nat) : Option SynEntry :=
  ((List.range n).find? fun i => gf2Rem poly n (1 <<< i) == x).map fun i => { weight := 1, pattern := word32 (1 <<< i) }

/-- The entry of a syndrome among the pairs. -/
def pairEntry (poly n x : Nat) : Option SynEntry :=
  (firstPair n fun i j => gf2Rem poly n ((1 <<< i) ||| (1 <<< j)) == x).map fun ij =>
    { weight := 2, pattern := word32 ((1 <<< ij.1) ||| (1 <<< ij.2)) }

theorem synAt_singles (poly n x : Nat) :
    synAt (recordAll poly n 1 (singlePatterns n) []) x = singleEntry poly n x := by
  rw [synAt_recordAll List.Pairwise.nil, find?_singlePatterns, Option.map_map]
  exact Option.none_or

theorem synAt_buildSyn_one (poly n x : Nat) : synAt (buildSyn poly n 1) x = singleEntry poly n x := synAt_singles poly n x

/-- Singles come before pairs. -/
theorem synAt_buildSyn_two {maxErrors : Nat} (h : 2 ≤ maxErrors) (poly n x : Nat) :
    synAt (buildSyn poly n maxErrors) x = (singleEntry poly n x).or (pairEntry poly n x) := by
  rw [buildSyn, if_pos h, synAt_recordAll (Rising.recordAll List.Pairwise.nil _), synAt_singles, find?_pairPatterns,
    Option.map_map]
  rfl

/-- An entry of a table built in range is a pattern of the word length, recorded at its syndrome. -/
theorem mem_buildSyn {maxErrors x : Nat} {e : SynEntry} (hn : n ≤ 32) (h : (x, e) ∈ buildSyn poly n maxErrors) :
    gf2Rem poly n e.pattern.toNat = x ∧ e.pattern.toNat < 2 ^ n ∧ (e.weight = 1 ∨ e.weight = 2) := by
  have hentry : ∀ {p : Nat} {w : BitVec 2}, p < 2 ^ n → (w = 1 ∨ w = 2) →
      (x, e) = (gf2Rem poly n p, { weight := w, pattern := word32 p }) →
      gf2Rem poly n e.pattern.toNat = x ∧ e.pattern.toNat < 2 ^ n ∧ (e.weight = 1 ∨ e.weight = 2) := by
    intro p w hp hw heq
    obtain ⟨rfl, rfl⟩ := Prod.mk.inj heq
    have hword : (word32 p).toNat = p := word32_toNat p (hp.trans_le (Nat.pow_le_pow_right Nat.two_pos hn))
    rw [hword]
    exact ⟨rfl, hp, hw⟩
  have hsingle : ∀ c ∈ recordAll poly n 1 (singlePatterns n) [], c = (x, e) →
      gf2Rem poly n e.pattern.toNat = x ∧ e.pattern.toNat < 2 ^ n ∧ (e.weight = 1 ∨ e.weight = 2) := by
    rintro c hc rfl
    obtain hc | ⟨p, hp, heq⟩ := mem_recordAll hc
    · cases hc
    · obtain ⟨i, hi, rfl⟩ := List.mem_map.1 hp
      exact hentry (one_shiftLeft_lt (List.mem_range.1 hi)) (.inl rfl) heq
  rw [buildSyn] at h
  split at h
  · obtain h | ⟨p, hp, heq⟩ := mem_recordAll h
    · exact hsingle _ h rfl
    · obtain ⟨i, hi, hp⟩ := List.mem_flatMap.1 hp
      obtain ⟨j, hj, rfl⟩ := List.mem_map.1 hp
      rw [List.mem_range'_1] at hj
      rw [List.mem_range] at hi
      exact hentry (Nat.or_lt_two_pow (one_shiftLeft_lt hi) (one_shiftLeft_lt (by omega))) (.inr rfl) heq
  · exact hsingle _ h rfl

theorem mem_of_synAt_eq_some {tab : List (Nat × SynEntry)} {x : Nat} {e : SynEntry} (h : synAt tab x = some e) :
    (x, e) ∈ tab := by
  induction tab with
  | nil => cases h
  | cons d rest ih =>
    obtain ⟨k, u⟩ := d
    rw [synAt] at h
    split at h
    next hk =>
      cases h
      rw [hk]
      exact List.mem_cons_self ..
    next => exact List.mem_cons_of_mem _ (ih h)

/-- What a valid slot's parameters are (R133). -/
theorem BchSlot.Sound.params {t : BchSlot} (h : t.Sound) (hv : t.valid = true) :
    t.poly.toNat ≠ 0 ∧ 1 ≤ t.n ∧ t.n ≤ 32 ∧ 1 ≤ t.maxErrors ∧ bitlen t.poly.toNat - 1 ≤ t.synbits ∧
      t.syn = buildSyn t.poly.toNat t.n t.maxErrors := by
  obtain ⟨hgood, hsyn⟩ := h hv
  obtain ⟨hpoly, hn, hn', he, -, hs, -⟩ := badBchOperands_eq_false_iff.1 hgood
  exact ⟨by omega, hn, hn', he, hs, hsyn⟩

/-- A valid slot's entries (R134). -/
theorem BchSlot.Sound.entry {t : BchSlot} (h : t.Sound) (hv : t.valid = true) {x : Nat} {e : SynEntry}
    (he : (x, e) ∈ t.syn) :
    x < 2 ^ t.synbits ∧ gf2Rem t.poly.toNat t.n e.pattern.toNat = x ∧ e.pattern.toNat < 2 ^ t.n ∧
      (e.weight = 1 ∨ e.weight = 2) := by
  obtain ⟨hpoly, -, hn, -, hs, hsyn⟩ := h.params hv
  rw [hsyn] at he
  obtain ⟨hrem, hlt, hw⟩ := mem_buildSyn hn he
  refine ⟨?_, hrem, hlt, hw⟩
  rw [← hrem]
  rw [bitlen_sub_one] at hs
  exact (gf2Rem_isRemainder hpoly hlt).lt.trans_le (Nat.pow_le_pow_right Nat.two_pos hs)

/-- Settles O33. -/
theorem syndromeTableFirstWins : Obligations.SyndromeTableFirstWins := by
  refine ⟨fun poly n maxErrors x => ?_, fun t ht hv x e he => ht.entry hv he⟩
  by_cases h2 : 2 ≤ maxErrors
  · rw [synAt_buildSyn_two h2, singleEntry, if_pos h2]
    cases (List.range n).find? fun i => gf2Rem poly n (1 <<< i) == x <;> rfl
  · rw [buildSyn, if_neg h2, synAt_singles, singleEntry, if_neg h2]
    cases (List.range n).find? fun i => gf2Rem poly n (1 <<< i) == x <;> rfl

/-! ### The search (R136, R137) -/

section Search

variable {L w : Nat} (hpoly : poly ≠ 0) (hw : w < 2 ^ L)

include hpoly hw

/-- Flipping the bits of a pattern gives a codeword exactly if the pattern has the word's syndrome. -/
theorem gf2Rem_flip {e : Nat} (he : e < 2 ^ L) :
    (gf2Rem poly L (w ^^^ e) == 0) = (gf2Rem poly L e == gf2Rem poly L w) := by
  rw [gf2Rem_xor hpoly hw he, Bool.eq_iff_iff, beq_iff_eq, beq_iff_eq, Nat.xor_eq_zero_iff]
  exact eq_comm

theorem find?_flip :
    ((List.range L).find? fun i => gf2Rem poly L (w ^^^ (1 <<< i)) == 0) =
      (List.range L).find? fun i => gf2Rem poly L (1 <<< i) == gf2Rem poly L w :=
  List.find?_congr fun _ hi => gf2Rem_flip hpoly hw (one_shiftLeft_lt (List.mem_range.1 hi))

theorem firstPair_flip :
    (firstPair L fun i j => gf2Rem poly L (w ^^^ (1 <<< i) ^^^ (1 <<< j)) == 0) =
      firstPair L fun i j => gf2Rem poly L ((1 <<< i) ^^^ (1 <<< j)) == gf2Rem poly L w :=
  firstPair_congr fun i j hij hj => by
    rw [Nat.xor_assoc]
    exact gf2Rem_flip hpoly hw (pair_lt (hij.trans hj) hj)

/-- The search is a look-up in the table of two errors (R137 e). -/
theorem bchSearch_eq_lookup (hL : L ≤ 32) :
    bchSearch poly L w =
      if gf2Rem poly L w = 0 then some (0, w)
      else ((singleEntry poly L (gf2Rem poly L w)).or (pairEntry poly L (gf2Rem poly L w))).map fun e =>
        (e.weight.toNat, w ^^^ e.pattern.toNat) := by
  have hword : ∀ {p : Nat}, p < 2 ^ L → (word32 p).toNat = p := fun hp =>
    word32_toNat _ (hp.trans_le (Nat.pow_le_pow_right Nat.two_pos hL))
  have hpairs : (firstPair L fun i j => gf2Rem poly L ((1 <<< i) ||| (1 <<< j)) == gf2Rem poly L w) =
      firstPair L fun i j => gf2Rem poly L ((1 <<< i) ^^^ (1 <<< j)) == gf2Rem poly L w :=
    firstPair_congr fun i j hij _ => by rw [one_shiftLeft_or hij]
  rw [bchSearch, find?_flip hpoly hw, firstPair_flip hpoly hw, singleEntry, pairEntry, hpairs]
  split
  next => rfl
  next =>
    cases hone : (List.range L).find? fun i => gf2Rem poly L (1 <<< i) == gf2Rem poly L w with
    | some i =>
      have hi : i < L := List.mem_range.1 (List.mem_of_find?_eq_some hone)
      simp only [Option.map_some, Option.some_or, hword (one_shiftLeft_lt hi)]
      rfl
    | none =>
      cases htwo : firstPair L fun i j => gf2Rem poly L ((1 <<< i) ^^^ (1 <<< j)) == gf2Rem poly L w with
      | none => rfl
      | some ij =>
        obtain ⟨i, j⟩ := ij
        obtain ⟨hij, hj, -⟩ := firstPair_bounds htwo
        simp only [Option.map_none, Option.map_some, Option.none_or, one_shiftLeft_or hij,
          hword (pair_lt (hij.trans hj) hj), ← Nat.xor_assoc]
        rfl

end Search

section Flips

variable {L c : Nat} (hpoly : poly ≠ 0) (hc : c < 2 ^ L) (hzero : gf2Rem poly L c = 0)

include hpoly hc hzero

theorem gf2Rem_codeword_xor {e : Nat} (he : e < 2 ^ L) : gf2Rem poly L (c ^^^ e) = gf2Rem poly L e := by
  rw [gf2Rem_xor hpoly hc he, hzero, Nat.zero_xor]

theorem bchSearch_single {i : Nat} (hi : i < L) (hne : gf2Rem poly L (1 <<< i) ≠ 0)
    (hfirst : ∀ p, p < i → gf2Rem poly L (1 <<< p) ≠ gf2Rem poly L (1 <<< i)) :
    bchSearch poly L (c ^^^ (1 <<< i)) = some (1, c) := by
  have he := one_shiftLeft_lt hi
  have hsyn := gf2Rem_codeword_xor hpoly hc hzero he
  have hfind : ((List.range L).find? fun p => gf2Rem poly L (1 <<< p) == gf2Rem poly L (1 <<< i)) = some i := by
    refine List.find?_range_eq_some.2 ⟨beq_self_eq_true _, List.mem_range.2 hi, fun p hp => ?_⟩
    rw [beq_eq_false_iff_ne.2 (hfirst p hp), Bool.not_false]
  rw [bchSearch, hsyn, if_neg hne, find?_flip hpoly (Nat.xor_lt_two_pow hc he), hsyn, hfind]
  exact congrArg some (congrArg (Prod.mk 1) (Nat.xor_xor_cancel_right ..))

theorem bchSearch_pair {i j : Nat} (hij : i < j) (hj : j < L) (hne : gf2Rem poly L ((1 <<< i) ^^^ (1 <<< j)) ≠ 0)
    (hsingle : ∀ p, p < L → gf2Rem poly L (1 <<< p) ≠ gf2Rem poly L ((1 <<< i) ^^^ (1 <<< j)))
    (hfirst : ∀ p q, p < q → q < L → (p < i ∨ (p = i ∧ q < j)) →
      gf2Rem poly L ((1 <<< p) ^^^ (1 <<< q)) ≠ gf2Rem poly L ((1 <<< i) ^^^ (1 <<< j))) :
    bchSearch poly L (c ^^^ (1 <<< i) ^^^ (1 <<< j)) = some (2, c) := by
  have he := pair_lt (hij.trans hj) hj
  have hsyn := gf2Rem_codeword_xor hpoly hc hzero he
  have hw := Nat.xor_lt_two_pow hc he
  have hnone : ((List.range L).find? fun p =>
      gf2Rem poly L (1 <<< p) == gf2Rem poly L ((1 <<< i) ^^^ (1 <<< j))) = none :=
    List.find?_eq_none.2 fun p hp => by simpa using hsingle p (List.mem_range.1 hp)
  have hpair := firstPair_eq_some (p := fun a b =>
      gf2Rem poly L ((1 <<< a) ^^^ (1 <<< b)) == gf2Rem poly L ((1 <<< i) ^^^ (1 <<< j))) hij hj (beq_self_eq_true _)
    fun a b hab hb hlt => beq_eq_false_iff_ne.2 (hfirst a b hab hb hlt)
  rw [Nat.xor_assoc, bchSearch, hsyn, if_neg hne, find?_flip hpoly hw, firstPair_flip hpoly hw, hsyn, hnone, hpair]
  refine congrArg some (congrArg (Prod.mk 2) ?_)
  rw [Nat.xor_assoc, Nat.xor_xor_cancel_right]

end Flips

/-- Settles O34. -/
theorem repairUndoesFlips : Obligations.RepairUndoesFlips := by
  refine ⟨fun poly L c hpos hc hzero => ?general, fun c i hc hzero hi => ?best⟩
  case general =>
    have hpoly : poly ≠ 0 := Nat.one_le_iff_ne_zero.1 hpos
    exact ⟨if_pos hzero, fun i hi hne hfirst => bchSearch_single hpoly hc hzero hi hne hfirst,
      fun i j hij hj hne hsingle hfirst => bchSearch_pair hpoly hc hzero hij hj hne hsingle hfirst⟩
  case best =>
    have hdistinct : ∀ i < 7, gf2Rem 29 7 (1 <<< i) ≠ 0 ∧ ∀ p < i, gf2Rem 29 7 (1 <<< p) ≠ gf2Rem 29 7 (1 <<< i) := by
      decide
    exact bchSearch_single (by decide) hc hzero hi (hdistinct i hi).1 (hdistinct i hi).2

/-! ### The commands (R135 to R139) -/

theorem gf2Rem_lt_word {L w : Nat} (hpoly : poly ≠ 0) (hpoly' : poly < 2 ^ 32) (hw : w < 2 ^ L) :
    gf2Rem poly L w < 2 ^ 32 :=
  (gf2Rem_isRemainder hpoly hw).lt.trans (Nat.pow_lt_pow_right Nat.one_lt_two ((Nat.log2_lt hpoly).2 hpoly'))

theorem vec_wordOf_lt {s : State} (hbits : ∀ x ∈ s.vec .a, x < 2) : wordOf (s.vec .a) < 2 ^ s.lenOf .a := by
  have h := wordOf_lt hbits
  rwa [vec_length] at h

/-- Settles O37. -/
theorem bchReadsComplete : Obligations.BchReadsComplete := by
  refine ⟨fun s hpoly hlen hlen' hbits => ?div, fun s c hc hv hx => ?synrd⟩
  case div =>
    exact completes_setRes0 (check_passed (Nat.not_lt_of_le hpoly) (check_passed
      (lengthOutside_eq_false_iff.2 ⟨hlen, hlen'⟩) (check_passed (not_someCellNotBit hbits) rfl)))
      (gf2Rem_lt_word (Nat.one_le_iff_ne_zero.1 hpoly) s.arg.r0.isLt (vec_wordOf_lt hbits))
  case synrd =>
    cases hat : synAt s.bch[c].syn s.arg0 with
    | none =>
      have hpass : execBchSynrd c s = complete (((s.setRes0 0).setRes1 0).setRes2 0) :=
        withBuilt_passed hc hv (check_passed (Nat.not_le_of_lt hx) (by rw [hat]))
      exact ⟨_, hpass, endsOk_endWith rfl rfl, ⟨rfl, rfl, rfl, rfl, rfl, rfl⟩,
        keepsMemory_endWith fun bid => by cases bid <;> rfl, ⟨rfl, rfl, rfl, rfl⟩, rfl, rfl, rfl, rfl⟩
    | some e =>
      have hpass : execBchSynrd c s =
          complete (((s.setRes0 1).setRes1 e.weight.toNat).setRes2 e.pattern.toNat) :=
        withBuilt_passed hc hv (check_passed (Nat.not_le_of_lt hx) (by rw [hat]))
      have hweight : e.weight.toNat < 2 ^ 32 := e.weight.isLt.trans (by decide)
      exact ⟨_, hpass, endsOk_endWith rfl rfl, ⟨rfl, rfl, rfl, rfl, rfl, rfl⟩,
        keepsMemory_endWith fun bid => by cases bid <;> rfl, ⟨rfl, rfl, rfl, rfl⟩, rfl, rfl, word32_toNat _ hweight,
        BitVec.eq_of_toNat_eq (word32_toNat _ e.pattern.isLt)⟩

section Repair

variable {s : State} {bits : List Nat} {synd : Nat}

/-- What a correction leaves. -/
theorem writeRepair_some (hlen : bits.length < 2 ^ 32) (hsynd : synd < 2 ^ 32) (count w : Nat) :
    ∃ t, writeRepair bits synd (some (count, w)) s = .next t ∧ KeepsRes23 s t ∧ t.res.r1.toNat = synd ∧ EndsOk s t ∧
      WritesR s t (bitsOf w bits.length) ∧ t.res.r0 = word32 count :=
  ⟨_, rfl, ⟨rfl, rfl⟩, word32_toNat _ hsynd, endsOk_endWith rfl rfl,
    writesR_endWith (by rwa [bitsOf_length]) (lt_cell_of_bits (bitsOf_lt _ _)) ⟨_, rfl⟩, rfl⟩

/-- What is left where no correction is found. -/
theorem writeRepair_none (hlen : bits.length < 2 ^ 32) (hbits : ∀ b ∈ bits, b < 2) (hsynd : synd < 2 ^ 32) :
    ∃ t, writeRepair bits synd none s = .next t ∧ KeepsRes23 s t ∧ t.res.r1.toNat = synd ∧
      EndsWith .uncorrectable s t ∧ WritesR s t bits ∧ t.res.r0 = 0xFFFFFFFF :=
  ⟨_, rfl, ⟨rfl, rfl⟩, word32_toNat _ hsynd, endsWith_endWith rfl rfl,
    writesR_endWith hlen (lt_cell_of_bits hbits) ⟨_, rfl⟩, rfl⟩

end Repair

/-- `BCH.REPAIR` on a bit string of legal length. -/
theorem execBchRepair_bits {s : State} (hpoly : 1 ≤ s.arg0) (hlen : 1 ≤ s.lenOf .a) (hlen' : s.lenOf .a ≤ VLEN)
    (hbits : ∀ x ∈ s.vec .a, x < 2) :
    exec .bchRepair s =
      writeRepair (s.vec .a) (gf2Rem s.arg0 (s.lenOf .a) (wordOf (s.vec .a)))
        (bchSearch s.arg0 (s.lenOf .a) (wordOf (s.vec .a))) s :=
  check_passed (Nat.not_lt_of_le hpoly) (check_passed (lengthOutside_eq_false_iff.2 ⟨hlen, hlen'⟩)
    (check_passed (not_someCellNotBit hbits) rfl))

/-- `BCH.LOOKUP` on a bit string of the slot's length. -/
theorem execBchLookup_bits {s : State} {c : Nat} (hc : c < NBCH) (hv : s.bch[c].valid = true)
    (hlen : s.lenOf .a = s.bch[c].n) (hbits : ∀ x ∈ s.vec .a, x < 2) :
    exec (.bchLookup c) s =
      writeRepair (s.vec .a) (gf2Rem s.bch[c].poly.toNat s.bch[c].n (wordOf (s.vec .a)))
        (bchTable s.bch[c] (wordOf (s.vec .a))) s := by
  dsimp only [exec]
  exact withBuilt_passed hc hv (check_passed (not_not_intro hlen) (check_passed (not_someCellNotBit hbits) rfl))

/-- Settles O38. -/
theorem repairCompletes : Obligations.RepairCompletes := by
  intro s hpoly hlen hlen' hbits L w synd one two
  have hvec : (s.vec .a).length = L := vec_length s .a
  have hlength : (s.vec .a).length < 2 ^ 32 := hvec.trans_lt (length_lt_of_le_VLEN hlen')
  have hsynd : synd < 2 ^ 32 := gf2Rem_lt_word (Nat.one_le_iff_ne_zero.1 hpoly) s.arg.r0.isLt (vec_wordOf_lt hbits)
  have hsame : bitsOf w (s.vec .a).length = s.vec .a := bitsOf_wordOf hbits
  have hstart : ∀ {found}, bchSearch s.arg0 L w = found → exec .bchRepair s = writeRepair (s.vec .a) synd found s :=
    fun h => (execBchRepair_bits hpoly hlen hlen' hbits).trans (by rw [← h])
  by_cases hzero : synd = 0
  · obtain ⟨t, ht, hk, hr1, hends, hw, hr0⟩ := writeRepair_some (s := s) hlength hsynd 0 w
    rw [hsame] at hw
    exact ⟨t, (hstart (if_pos hzero)).trans ht, hk, hr1, fun _ => ⟨hends, hw, hr0⟩, fun _ h => absurd hzero h,
      fun _ _ h => absurd hzero h, fun h => absurd hzero h⟩
  have hsearch : bchSearch s.arg0 L w =
      match one with
      | some i => some (1, w ^^^ (1 <<< i))
      | none => two.map fun ij => (2, w ^^^ (1 <<< ij.1) ^^^ (1 <<< ij.2)) := by
    rw [bchSearch, if_neg hzero]
    cases hone : one with
    | some i => simp only [one] at hone; rw [hone]
    | none =>
      simp only [one] at hone
      rw [hone]
      cases htwo : two with
      | none => simp only [two] at htwo; rw [htwo]; rfl
      | some ij => simp only [two] at htwo; rw [htwo]; rfl
  cases hone : one with
  | some i =>
    obtain ⟨t, ht, hk, hr1, hends, hw, hr0⟩ := writeRepair_some (s := s) hlength hsynd 1 (w ^^^ (1 <<< i))
    rw [hvec] at hw
    refine ⟨t, (hstart (hsearch.trans (by rw [hone]))).trans ht, hk, hr1, fun h => absurd h hzero, ?_, ?_, ?_⟩
    · rintro _ - ⟨⟩
      exact ⟨hends, hw, hr0⟩
    · rintro _ _ - ⟨⟩
    · rintro - ⟨⟩
  | none =>
    cases htwo : two with
    | some ij =>
      obtain ⟨i, j⟩ := ij
      obtain ⟨t, ht, hk, hr1, hends, hw, hr0⟩ :=
        writeRepair_some (s := s) hlength hsynd 2 (w ^^^ (1 <<< i) ^^^ (1 <<< j))
      rw [hvec] at hw
      refine ⟨t, (hstart (hsearch.trans (by rw [hone, htwo]; rfl))).trans ht, hk, hr1, fun h => absurd h hzero, ?_, ?_, ?_⟩
      · rintro _ - ⟨⟩
      · rintro _ _ - - ⟨⟩
        exact ⟨hends, hw, hr0⟩
      · rintro - - ⟨⟩
    | none =>
      obtain ⟨t, ht, hk, hr1, hends, hw, hr0⟩ := writeRepair_none (s := s) hlength hbits hsynd
      refine ⟨t, (hstart (hsearch.trans (by rw [hone, htwo]; rfl))).trans ht, hk, hr1, fun h => absurd h hzero, ?_, ?_, ?_⟩
      · rintro _ - ⟨⟩
      · rintro _ _ - - ⟨⟩
      · exact fun _ _ _ => ⟨hends, hw, hr0⟩

/-- Settles O39. -/
theorem lookupCompletes : Obligations.LookupCompletes := by
  intro s c hc hs hv hlen hbits n w synd
  have hsound : s.bch[c].Sound := hs.bchSlots ⟨c, hc⟩
  obtain ⟨hpoly, -, hn, -⟩ := hsound.params hv
  have hvec : (s.vec .a).length = n := (vec_length s .a).trans hlen
  have hlength : (s.vec .a).length < 2 ^ 32 := hvec.trans_lt (Nat.lt_of_le_of_lt hn (by decide))
  have hword : w < 2 ^ n := (vec_wordOf_lt hbits).trans_eq (by rw [hlen])
  have hsynd : synd < 2 ^ 32 := gf2Rem_lt_word hpoly s.bch[c].poly.isLt hword
  have hsame : bitsOf w (s.vec .a).length = s.vec .a := bitsOf_wordOf hbits
  have hstart : ∀ {found}, bchTable s.bch[c] w = found → exec (.bchLookup c) s = writeRepair (s.vec .a) synd found s :=
    fun h => (execBchLookup_bits hc hv hlen hbits).trans (by rw [← h])
  by_cases hzero : synd = 0
  · obtain ⟨t, ht, hk, hr1, hends, hw, hr0⟩ := writeRepair_some (s := s) hlength hsynd 0 w
    rw [hsame] at hw
    exact ⟨t, (hstart (if_pos hzero)).trans ht, hk, hr1, fun _ => ⟨hends, hw, hr0⟩, fun _ h => absurd hzero h,
      fun h => absurd hzero h⟩
  have htable : bchTable s.bch[c] w =
      (synAt s.bch[c].syn synd).map fun e => (e.weight.toNat, w ^^^ e.pattern.toNat) := if_neg hzero
  cases hat : synAt s.bch[c].syn synd with
  | some e =>
    obtain ⟨-, hrem, hlt, -⟩ := hsound.entry hv (mem_of_synAt_eq_some hat)
    obtain ⟨t, ht, hk, hr1, hends, hw, hr0⟩ :=
      writeRepair_some (s := s) hlength hsynd e.weight.toNat (w ^^^ e.pattern.toNat)
    rw [hvec] at hw
    refine ⟨t, (hstart (htable.trans (by rw [hat]; rfl))).trans ht, hk, hr1, fun h => absurd h hzero, ?_, ?_⟩
    · rintro _ - ⟨⟩
      refine ⟨hends, hw, ?_, ?_⟩
      · rw [hr0, word32_toNat _ (e.weight.isLt.trans (by decide))]
      · rw [gf2Rem_xor hpoly hword hlt, hrem]
        exact Nat.xor_self synd
    · rintro - ⟨⟩
  | none =>
    obtain ⟨t, ht, hk, hr1, hends, hw, hr0⟩ := writeRepair_none (s := s) hlength hbits hsynd
    refine ⟨t, (hstart (htable.trans (by rw [hat]; rfl))).trans ht, hk, hr1, fun h => absurd h hzero, ?_, ?_⟩
    · rintro _ - ⟨⟩
    · exact fun _ _ => ⟨hends, hw, hr0⟩

/-! ### The two decoders agree (R137 e) -/

theorem singleEntry_weight {x : Nat} {e : SynEntry} (h : singleEntry poly n x = some e) : e.weight = 1 := by
  obtain ⟨i, -, rfl⟩ := Option.map_eq_some_iff.1 h
  rfl

theorem pairEntry_weight {x : Nat} {e : SynEntry} (h : pairEntry poly n x = some e) : e.weight = 2 := by
  obtain ⟨ij, -, rfl⟩ := Option.map_eq_some_iff.1 h
  rfl

section Agree

variable {t : BchSlot} {w : Nat} (ht : t.Sound) (hv : t.valid = true) (hw : w < 2 ^ t.n)

include ht hv hw

theorem bchTable_eq_search (h2 : 2 ≤ t.maxErrors) : bchTable t w = bchSearch t.poly.toNat t.n w := by
  obtain ⟨hpoly, -, hn, -, -, hsyn⟩ := ht.params hv
  rw [bchSearch_eq_lookup hpoly hw hn, bchTable, hsyn, synAt_buildSyn_two h2]

/-- A table of one error lacks only the entries of the pairs. -/
theorem bchTable_one (h1 : t.maxErrors = 1) :
    (bchTable t w = bchSearch t.poly.toNat t.n w ∧ ∀ v, bchSearch t.poly.toNat t.n w ≠ some (2, v)) ∨
      (bchTable t w = none ∧ ∃ v, bchSearch t.poly.toNat t.n w = some (2, v)) := by
  obtain ⟨hpoly, -, hn, -, -, hsyn⟩ := ht.params hv
  rw [bchSearch_eq_lookup hpoly hw hn, bchTable, hsyn, h1, synAt_buildSyn_one]
  split
  next => exact .inl ⟨rfl, fun v h => by cases h⟩
  next =>
    cases hone : singleEntry t.poly.toNat t.n (gf2Rem t.poly.toNat t.n w) with
    | some e =>
      refine .inl ⟨rfl, fun v h => ?_⟩
      rw [Option.some_or, Option.map_some, singleEntry_weight hone] at h
      cases h
    | none =>
      cases htwo : pairEntry t.poly.toNat t.n (gf2Rem t.poly.toNat t.n w) with
      | none => exact .inl ⟨rfl, fun v h => by cases h⟩
      | some e =>
        refine .inr ⟨rfl, w ^^^ e.pattern.toNat, ?_⟩
        rw [Option.none_or, Option.map_some, pairEntry_weight htwo]
        rfl

end Agree

/-- Settles O35: either command looks the syndrome up, and the tables differ in the pairs alone. -/
theorem repairAgreesWithLookup : Obligations.RepairAgreesWithLookup := by
  intro s c hc hs hv hreg hlen
  have hsound : s.bch[c].Sound := hs.bchSlots ⟨c, hc⟩
  obtain ⟨hpoly, hn, hn', -⟩ := hsound.params hv
  have harg : s.arg0 = s.bch[c].poly.toNat := congrArg BitVec.toNat hreg
  have hpos : 1 ≤ s.arg0 := by omega
  have hlen1 : 1 ≤ s.lenOf .a := by omega
  have hlen2 : s.lenOf .a ≤ VLEN := (hlen.trans_le hn').trans (by decide)
  by_cases hbits : ∀ x ∈ s.vec .a, x < 2
  case neg =>
    have hcell : someCellNotBit (s.vec .a) = true := by
      push Not at hbits
      exact someCellFrom_iff.2 hbits
    have hrepair : exec .bchRepair s = raise .operandRange s :=
      check_passed (Nat.not_lt_of_le hpos) (check_passed (lengthOutside_eq_false_iff.2 ⟨hlen1, hlen2⟩) (if_pos hcell))
    have hlookup : exec (.bchLookup c) s = raise .operandRange s := by
      dsimp only [exec]
      exact withBuilt_passed hc hv (check_passed (not_not_intro hlen) (if_pos hcell))
    rw [hrepair, hlookup]
    refine ⟨fun _ => rfl, fun _ t ht => ⟨fun _ => ht, fun hok => ?_⟩⟩
    cases ht
    cases hok
  case pos =>
    have hw : wordOf (s.vec .a) < 2 ^ s.bch[c].n := (vec_wordOf_lt hbits).trans_eq (by rw [hlen])
    have hrepair := execBchRepair_bits hpos hlen1 hlen2 hbits
    have hlookup := execBchLookup_bits hc hv hlen hbits
    rw [harg, hlen] at hrepair
    rw [hrepair, hlookup]
    refine ⟨fun h2 => by rw [bchTable_eq_search hsound hv hw h2], fun h1 t ht => ?_⟩
    have hlength : (s.vec .a).length < 2 ^ 32 := (vec_length s .a).trans_lt (length_lt_of_le_VLEN hlen2)
    have hsynd := gf2Rem_lt_word hpoly s.bch[c].poly.isLt hw
    obtain ⟨heq, hnot⟩ | ⟨hnone, v, htwo⟩ := bchTable_one hsound hv hw h1
    · rw [heq]
      refine ⟨fun _ => ht, fun hok hr0 => ?_⟩
      obtain ⟨count, v, hfound, rfl⟩ | ⟨-, rfl⟩ := writeRepair_eq_next.1 ht
      · have hcount : count = 2 := by
          have hle : count < 2 ^ 32 := by
            rw [bchSearch_eq_lookup hpoly hw hn'] at hfound
            split at hfound
            · cases hfound
              decide
            · obtain ⟨e, -, he⟩ := Option.map_eq_some_iff.1 hfound
              obtain ⟨rfl, -⟩ := Prod.mk.inj he
              exact e.weight.isLt.trans (by decide)
          rw [← word32_toNat count hle]
          exact congrArg BitVec.toNat hr0
        exact absurd (hcount ▸ hfound) (hnot v)
      · cases hok
    · rw [hnone]
      rw [htwo] at ht
      obtain ⟨t', ht', -, hr1, hends, -, hr0⟩ := writeRepair_some (s := s) hlength hsynd 2 v
      obtain rfl : t' = t := Host.Outcome.next.inj (ht'.symm.trans ht)
      obtain ⟨u, hu, hk, hu1, huends, huw, hu0⟩ := writeRepair_none (s := s) hlength hbits hsynd
      refine ⟨fun h => ?_, fun _ _ => ⟨u, hu, huends, huw, hu0, BitVec.eq_of_toNat_eq (hu1.trans hr1.symm), hk⟩⟩
      obtain h | h := h
      · exact absurd hends.cond h
      · exact absurd hr0 h

end Sys2Proof.Machine
end

section
/-! PROOFS. The Reed-Solomon commands (43_reed_solomon.md R150 to R170): what a valid code holds, and what each command
leaves when its checks have passed. What the decoder's functions return is settled after this. -/

namespace Sys2Proof.Machine

open Sys2Proof.Config

/-! ### A valid code (R38, R150 to R152) -/

/-- Slot `k` holds a legal code over the built field slot `t`, with its generator polynomial. -/
structure CodeOver (t : FieldSlot) (k : RsSlot) : Prop where
  built : t.Built
  nsym_pos : 1 ≤ k.nsym
  nsym_le : k.nsym ≤ MAXNSYM
  nsym_lt : k.nsym ≤ t.order - 1
  fcr_le : k.fcr ≤ t.order - 1
  gen : k.a = t.gen.toNat
  genpoly : k.genpoly.map BitVec.toNat = rsGenpoly t k.nsym k.fcr k.a

/-- A list of symbols keeps its values in a slot. -/
theorem map_toNat_ofNat {xs : List Nat} (h : ∀ x ∈ xs, x < 2 ^ 8) :
    (xs.map (BitVec.ofNat 8)).map BitVec.toNat = xs := by
  rw [List.map_map]
  exact (List.map_congr_left fun x hx => Nat.mod_eq_of_lt (h x hx)).trans (List.map_id xs)

theorem State.Sound.codeOver {s : State} (h : s.Sound) {r : Nat} {hr : r < NRS} (hv : s.rs[r].valid = true) :
    CodeOver s.fields[s.rs[r].field] s.rs[r] := by
  obtain ⟨hfield, hgood, hpoly⟩ := h.rsSlots ⟨r, hr⟩ hv
  obtain ⟨h1, h2, h3, h4, h5⟩ := ContentSound.badCodeOperands_eq_false_iff.1 hgood
  refine ⟨FieldSlot.built (h.fieldSlots s.rs[r].field) hfield, h1, h2, h3, h4, h5, ?_⟩
  exact (congrArg (List.map BitVec.toNat) hpoly).trans
    (map_toNat_ofNat ((opsBelow_symbol _).rsGenpoly (RsSlot.a_lt_symbol _) _ _))

theorem rsGenpoly_succ (t : FieldSlot) (nsym fcr a : Nat) :
    rsGenpoly t (nsym + 1) fcr a = polyMul t (rsGenpoly t nsym fcr a) [1, gfPow t a ((fcr + nsym : Nat) : Int)] := by
  rw [rsGenpoly, List.range_succ, List.foldl_append]
  rfl

theorem rsGenpoly_length (t : FieldSlot) (nsym fcr a : Nat) : (rsGenpoly t nsym fcr a).length = nsym + 1 := by
  induction nsym with
  | zero => rfl
  | succ n ih => rw [rsGenpoly_succ, polyMul_length _ _ _ (List.cons_ne_nil _ _), ih]; rfl

theorem FieldSlot.Built.one_gfMul_one {t : FieldSlot} (h : t.Built) : gfMul t 1 1 = 1 := by
  obtain ⟨F, _, ⟨M⟩⟩ := h.exists_model
  exact M.inj (M.mul_lt M.one_lt M.one_lt) M.one_lt (by rw [M.mul M.one_lt M.one_lt, M.one, one_mul])

/-- The generator polynomial is monic (R151). -/
theorem rsGenpoly_head {t : FieldSlot} (h : t.Built) (nsym fcr a : Nat) : (rsGenpoly t nsym fcr a).head? = some 1 := by
  induction nsym with
  | zero => rfl
  | succ n ih =>
    obtain ⟨rest, hrest⟩ := List.head?_eq_some_iff.1 ih
    rw [rsGenpoly_succ, hrest, polyMul, List.map_cons, h.one_gfMul_one]
    rfl

namespace CodeOver

variable {t : FieldSlot} {k : RsSlot} (h : CodeOver t k)

include h

theorem genpoly_length : k.genpoly.length = k.nsym + 1 := by
  have hlen := congrArg List.length h.genpoly
  rwa [List.length_map, rsGenpoly_length] at hlen

omit h in
theorem genAt_eq (j : Nat) : k.genAt j = (k.genpoly.map BitVec.toNat).getD j 0 :=
  (List.getD_map k.genpoly 0 BitVec.toNat).symm

theorem map_genAt : (List.range (k.nsym + 1)).map k.genAt = k.genpoly.map BitVec.toNat := by
  have hlen := h.genpoly_length
  refine List.ext_getElem (by rw [List.length_map, List.length_map, List.length_range, hlen]) fun i hi hi' => ?_
  rw [List.getElem_map, List.getElem_range, genAt_eq, List.getD_eq_getElem]

theorem order_le : t.order ≤ 255 := by
  have := h.built.two_pow_le
  rw [FieldSlot.order]
  omega

/-- A word of the code fits a buffer. -/
theorem word_le {n : Nat} (hn : n ≤ t.order) : n ≤ VLEN := (hn.trans h.order_le).trans (by decide)

theorem nsym_fits {n : Nat} (hn : n ≤ k.nsym + 1) : n ≤ VLEN :=
  (hn.trans (Nat.succ_le_succ h.nsym_le)).trans (by decide)

theorem lt_symbol {xs : List Nat} (hxs : ∀ x ∈ xs, x < 2 ^ t.m) : ∀ x ∈ xs, x < 2 ^ 8 := fun x hx =>
  (hxs x hx).trans_le h.built.two_pow_le

end CodeOver

/-! ### The commands -/

/-- Settles O43. -/
theorem codeConfigurationCompletes : Obligations.CodeConfigurationCompletes := by
  intro s r hr hf hs hv hfield hn hn' hn'' hfcr hgen
  have hbuilt : FieldSlot.Built s.fields[s.arg0] := FieldSlot.built (hs.fieldSlots ⟨s.arg0, hf⟩) hfield
  have hgood : ¬ badCodeOperands s.fields[s.arg0] s.arg1 s.arg2 s.arg3 = true := by
    rw [ContentSound.badCodeOperands_eq_false_iff.2 ⟨hn, hn', hn'', hfcr, hgen⟩]
    decide
  have hgen8 : s.arg3 < 2 ^ 8 := hgen ▸ BitVec.isLt _
  have hpoly := map_toNat_ofNat ((opsBelow_symbol s.fields[s.arg0]).rsGenpoly hgen8 s.arg1 s.arg2)
  have hvalid : ¬ (!s.fields[s.arg0].valid) = true := by rw [hfield]; decide
  refine ⟨_, withUnbuilt_passed hr hv ((dif_pos hf).trans (check_passed hvalid (check_passed hgood rfl))),
    endsOk_endWith rfl rfl, ⟨rfl, rfl, rfl, rfl, rfl, rfl⟩, rfl, keepsMemory_endWith fun bid => by cases bid <;> rfl,
    rfl, rfl, rfl, fun d hd hne => Vector.getElem_set_ne hr hd hne.symm, ?_⟩
  simp only [endWith_rs, Vector.getElem_set_self]
  refine ⟨trivial, trivial, trivial, trivial, Nat.mod_eq_of_lt hgen8, hpoly, ?_, ?_⟩
  · rw [List.length_map, rsGenpoly_length]
  · rw [List.head?_map, rsGenpoly_head hbuilt]
    rfl

/-- Settles O44. -/
theorem encoderCompletes : Obligations.EncoderCompletes := by
  intro s r hr hs hv k t
  have hcode : CodeOver t k := hs.codeOver hv
  refine ⟨?gpoly, fun ha hlen hcells => ?enc⟩
  all_goals dsimp only [exec]
  case gpoly =>
    have hlength : (k.genpoly.map BitVec.toNat).length = k.nsym + 1 := by rw [List.length_map, hcode.genpoly_length]
    obtain ⟨hends, hres, hw, hl⟩ := ended_writeR (s := s) (xs := k.genpoly.map BitVec.toNat)
      (hcode.nsym_fits hlength.le) (lt_cell_of_lt_symbol fun x hx => by
        obtain ⟨v, -, rfl⟩ := List.mem_map.1 hx
        exact v.isLt)
    refine ⟨_, withCode_passed hr hv ?_, hends, hres, hw, hl.trans hlength⟩
    exact congrArg (fun xs => complete (writeOut .r xs s)) hcode.map_genAt
  case enc =>
    have hlength : (rsEncode t k (s.vec .a)).length = s.lenOf .a + k.nsym := by rw [rsEncode_length, vec_length]
    obtain ⟨hends, hres, hw, hl⟩ := ended_writeR (s := s) (hlength.trans_le (hcode.word_le hlen))
      (lt_cell_of_lt_symbol ((opsBelow_symbol t).rsEncode (RsSlot.genAt_lt_symbol k) (hcode.lt_symbol hcells)))
    refine ⟨_, withCode_passed hr hv (check_passed ?_ (check_passed (not_someCellFrom hcells) rfl)), hends, hres, hw,
      hl.trans hlength⟩
    simp only [Bool.or_eq_true, decide_eq_true_eq]
    exact fun h => h.elim (fun h => Nat.not_lt_of_le ha h) fun h => Nat.not_lt_of_le hlen h

theorem allZero_iff {xs : List Nat} : allZero xs = true ↔ ∀ x ∈ xs, x = 0 := by
  simp only [allZero, List.all_eq_true, beq_iff_eq]

theorem rsEpos_lt {t : FieldSlot} {k : RsSlot} {loc pos : List Nat} {n : Nat} (h : rsEpos t k loc n = some pos) :
    ∀ p ∈ pos, p < n := by
  unfold rsEpos at h
  dsimp only at h
  split at h
  next =>
    cases h
    intro p hp
    obtain ⟨i, hi, rfl⟩ := List.mem_map.1 hp
    have hi := List.mem_range.1 (List.mem_of_mem_filter hi)
    omega
  next => cases h

theorem stripLeading_ne_nil {p : List Nat} (h : p ≠ []) : stripLeading p ≠ [] := by
  induction p using stripLeading.induct with
  | case1 => exact h
  | case2 x => exact h
  | case3 y rest ih =>
    rw [stripLeading, if_pos rfl]
    exact ih (List.cons_ne_nil _ _)
  | case4 x y rest hx =>
    rw [stripLeading, if_neg hx]
    exact List.cons_ne_nil _ _

theorem bmStep_lo_length_ge (t : FieldSlot) (syn : List Nat) (rho : Nat) (x : BmState) (k : Nat) :
    x.lo.length ≤ (bmStep t syn rho x k).lo.length := by
  unfold bmStep
  dsimp only
  split
  · exact le_rfl
  · split <;>
    · rw [xorPad_length]
      exact le_max_left ..

theorem foldl_bmStep_lo_length_ge (t : FieldSlot) (syn : List Nat) (rho : Nat) (ks : List Nat) (x : BmState) :
    x.lo.length ≤ (ks.foldl (bmStep t syn rho) x).lo.length := by
  induction ks generalizing x with
  | nil => exact le_rfl
  | cons k rest ih => exact (bmStep_lo_length_ge t syn rho x k).trans (ih _)

theorem rsEloc_ne_nil (t : FieldSlot) (k : RsSlot) (syn eras : List Nat) (n : Nat) : rsEloc t k syn eras n ≠ [] := by
  refine stripLeading_ne_nil fun h => ?_
  have hlen := foldl_bmStep_lo_length_ge t syn eras.length (List.range' eras.length (k.nsym - eras.length))
    { lo := locatorOf t (eras.map fun e => locatorValue t k e n)
      aux := locatorOf t (eras.map fun e => locatorValue t k e n), len := eras.length }
  rw [List.reverse_eq_nil_iff.1 h, locatorOf_length] at hlen
  cases hlen

/-- Settles O45. -/
theorem decoderStagesComplete : Obligations.DecoderStagesComplete := by
  intro s r hr hs hv k t hcells
  have hcode : CodeOver t k := hs.codeOver hv
  have hsymbols := hcode.lt_symbol hcells
  refine ⟨fun ha ha' => ?synd, fun hn hn' => ⟨fun ha hb hera => ?eloc,
    fun ha ha' => ⟨fun pos hpos => ?found, fun hpos => ?lost⟩⟩⟩
  all_goals dsimp only [exec]
  case synd =>
    have hlength : (rsSyndromes t k (s.vec .a)).length = k.nsym := rsSyndromes_length t k _
    have hflag : (allZero (rsSyndromes t k (s.vec .a))).toNat < 2 ^ 32 := (Bool.toNat_lt _).trans (by decide)
    obtain ⟨hends, hw, hl, hr0, hk⟩ := ended_writeR_setRes0 (s := s) (hcode.nsym_fits (hlength.le.trans (Nat.le_succ _)))
      (lt_cell_of_lt_symbol ((opsBelow_symbol t).rsSyndromes (RsSlot.a_lt_symbol k) hsymbols)) hflag
    refine ⟨_, withCode_passed hr hv (check_passed (lengthOutside_eq_false_iff.2 ⟨ha, ha'⟩)
      (check_passed (not_someCellFrom hcells) rfl)), hends, hw, hl.trans hlength, hk, BitVec.eq_of_toNat_eq (hr0.trans ?_)⟩
    split
    next hz => rw [allZero_iff.2 hz]; rfl
    next hz => rw [Bool.eq_false_of_not_eq_true (mt allZero_iff.1 hz)]; rfl
  case eloc =>
    have hlength := rsEloc_length_le t k (s.vec .a) (eras := s.vec .b) s.arg0 (by rw [vec_length]; exact hb)
    have hpos : 0 < (rsEloc t k (s.vec .a) (s.vec .b) s.arg0).length :=
      List.length_pos_iff.2 (rsEloc_ne_nil t k _ _ _)
    have hfit := hcode.nsym_fits hlength
    obtain ⟨hends, hw, hl, hr0, hk⟩ := ended_writeR_setRes0 (s := s) hfit
      (lt_cell_of_lt_symbol ((opsBelow_symbol t).rsEloc (RsSlot.a_lt_symbol k) hsymbols (s.vec .b) s.arg0))
      ((Nat.sub_le _ 1).trans_lt (length_lt_of_le_VLEN hfit))
    refine ⟨_, withCode_passed hr hv (check_passed (lengthOutside_eq_false_iff.2 ⟨hn, hn'⟩) (check_passed
      (not_not_intro ha) (check_passed (Nat.not_lt_of_le hb) (check_passed (not_someCellFrom hcells)
        (check_passed (not_someCellFrom hera) rfl))))), hends, hk, hw, ?_⟩
    rw [hr0, hl]
    exact Nat.sub_add_cancel hpos
  case found =>
    have hfit := hcode.word_le ((rsEpos_length_le hpos).trans hn')
    have horder := hcode.order_le
    obtain ⟨hends, hw, -, hr0, hk⟩ := ended_writeR_setRes0 (s := s) hfit
      (fun x hx => (rsEpos_lt hpos x hx).trans_le (hn'.trans (horder.trans (by decide)))) (length_lt_of_le_VLEN hfit)
    refine ⟨_, withCode_passed hr hv (check_passed (lengthOutside_eq_false_iff.2 ⟨hn, hn'⟩) (check_passed
      (lengthOutside_eq_false_iff.2 ⟨ha, ha'⟩) (check_passed (not_someCellFrom hcells) ?_))), hends, hw, hr0, hk⟩
    rw [hpos]
    rfl
  case lost =>
    refine withCode_passed hr hv (check_passed (lengthOutside_eq_false_iff.2 ⟨hn, hn'⟩) (check_passed
      (lengthOutside_eq_false_iff.2 ⟨ha, ha'⟩) (check_passed (not_someCellFrom hcells) ?_)))
    rw [hpos]
    rfl

section Decoding

variable {s : State} {r : Nat} (hr : r < NRS) (hv : s.rs[r].valid = true)

include hv

section

variable (hlen : s.rs[r].nsym + 1 ≤ s.lenOf .a) (hlen' : s.lenOf .a ≤ s.fields[s.rs[r].field].order)
  (hb : s.lenOf .b ≤ VLEN) (hcells : ∀ x ∈ s.vec .a, x < 2 ^ s.fields[s.rs[r].field].m)
  (hera : ∀ x ∈ s.vec .b, x < s.lenOf .a)

include hlen hlen' hb hcells hera

theorem execRsDec_ok {d : Decoded} (h : rsDecode s.fields[s.rs[r].field] s.rs[r] (s.vec .a) (s.vec .b) = .ok d) :
    execRsDec r s = complete ((writeOut .q d.par (writeOut .r d.msg s)).setRes0 d.count) :=
  withCode_passed hr hv (check_passed (lengthOutside_eq_false_iff.2 ⟨hlen, hlen'⟩) (check_passed (Nat.not_lt_of_le hb)
    (check_passed (not_someCellFrom hcells) (check_passed (not_someCellFrom hera) (by rw [h])))))

theorem execRsDec_error {c : Cond} (h : rsDecode s.fields[s.rs[r].field] s.rs[r] (s.vec .a) (s.vec .b) = .error c) :
    execRsDec r s = raise c s :=
  withCode_passed hr hv (check_passed (lengthOutside_eq_false_iff.2 ⟨hlen, hlen'⟩) (check_passed (Nat.not_lt_of_le hb)
    (check_passed (not_someCellFrom hcells) (check_passed (not_someCellFrom hera) (by rw [h])))))

end

section

variable (hop : ¬ badFrameOperands s.rs[r].nsym s.arg0 s.arg1 = true)
  (hlong : ¬ badFrameLength s.fields[s.rs[r].field].order s.arg0 s.arg1 (s.lenOf .a) = true)
  (hcells : ∀ x ∈ s.vec .a, x < 2 ^ s.fields[s.rs[r].field].m)

include hop hlong hcells

theorem execRsFix_ok {d : Decoded} (h : rsFix s.fields[s.rs[r].field] s.rs[r] s.arg1 (s.vec .a) = .ok d) :
    execRsFix r s =
      complete (((writeOut .q (d.par.take s.arg0) (writeOut .r d.msg s)).setRes0 1).setRes1 d.count) :=
  withCode_passed hr hv (check_passed hop (check_passed hlong (check_passed (not_someCellFrom hcells) (by rw [h]))))

theorem execRsFix_error {c : Cond} (h : rsFix s.fields[s.rs[r].field] s.rs[r] s.arg1 (s.vec .a) = .error c) :
    execRsFix r s = raise c (((writeOut .q [] (writeOut .r [] s)).setRes0 0).setRes1 0) :=
  withCode_passed hr hv (check_passed hop (check_passed hlong (check_passed (not_someCellFrom hcells) (by rw [h]))))

end

end Decoding

section BothOutputs

variable {c : Cond} {s : State} {xs ys : List Nat} (hx : xs.length ≤ VLEN) (hxs : ∀ x ∈ xs, x < 2 ^ 8)
  (hy : ys.length ≤ VLEN) (hys : ∀ y ∈ ys, y < 2 ^ 8)

include hx hxs hy hys

/-- `R`, `Q` and `RES[0]`. -/
theorem ended_writeRQ_setRes0 (u : Nat) :
    WritesRQ s (endWith c ((writeOut .q ys (writeOut .r xs s)).setRes0 u)) xs ys :=
  writesRQ_endWith (length_lt_of_le_VLEN hx) (lt_cell_of_lt_symbol hxs) (length_lt_of_le_VLEN hy)
    (lt_cell_of_lt_symbol hys) ⟨_, rfl⟩

/-- `R`, `Q`, `RES[0]` and `RES[1]`. -/
theorem ended_writeRQ_setRes01 (u v : Nat) :
    WritesRQ s (endWith c (((writeOut .q ys (writeOut .r xs s)).setRes0 u).setRes1 v)) xs ys :=
  writesRQ_endWith (length_lt_of_le_VLEN hx) (lt_cell_of_lt_symbol hxs) (length_lt_of_le_VLEN hy)
    (lt_cell_of_lt_symbol hys) ⟨_, rfl⟩

end BothOutputs

/-- Settles O47. -/
theorem decoderCompletes : Obligations.DecoderCompletes := by
  intro s r hr hs hv k t hlen hlen' hb hcells hera
  have hcode : CodeOver t k := hs.codeOver hv
  refine ⟨fun d hd => ?_, fun c hc => execRsDec_error hr hv hlen hlen' hb hcells hera hc⟩
  obtain ⟨word, count, hsplit, hword, -, hcount⟩ := rsDecode_ok_word hd
  obtain ⟨hmsg, hpar⟩ := (opsBelow_symbol t).rsDecode (RsSlot.a_lt_symbol k) (hcode.lt_symbol hcells) hd
  rw [vec_length] at hword hcount
  have hfit := hcode.word_le hlen'
  have hml : d.msg.length = s.lenOf .a - k.nsym := by rw [hsplit, splitWord_msg_length, hword]
  have hpl : d.par.length = k.nsym := by
    rw [hsplit]
    exact splitWord_par_length (by omega) count
  have hc : d.count ≤ s.lenOf .a := by
    rw [hsplit]
    exact hcount
  have hw := ended_writeRQ_setRes0 (c := .ok) (s := s) (hml.trans_le ((Nat.sub_le ..).trans hfit)) hmsg
    (hcode.nsym_fits (hpl.trans_le (Nat.le_succ _))) hpar d.count
  exact ⟨_, execRsDec_ok hr hv hlen hlen' hb hcells hera hd, endsOk_endWith rfl rfl, hw, hw.outputR.len.trans hml,
    hw.outputQ.len.trans hpl, word32_toNat _ (hc.trans_lt (length_lt_of_le_VLEN hfit)), rfl, rfl, rfl⟩

/-- The parity is what the codeword has after the message. -/
theorem rsEncode_drop (t : FieldSlot) (k : RsSlot) (msg : List Nat) :
    (rsEncode t k msg).drop msg.length = rsParity t k msg :=
  List.drop_left

/-- Settles O48. -/
theorem frameCheckCompletes : Obligations.FrameCheckCompletes := by
  intro s r hr hs hv k t hp hpe hlen hlen' hcells n cw
  have hmsg : ((s.vec .a).take n).length = n := by
    rw [List.length_take, vec_length]
    exact Nat.min_eq_left (Nat.sub_le ..)
  have hdrop : cw.drop n = rsParity t k ((s.vec .a).take n) := by
    have h := rsEncode_drop t k ((s.vec .a).take n)
    rwa [hmsg] at h
  have hflag : (frameMatches t k s.arg0 (s.vec .a)).toNat =
      if (cw.drop n).take s.arg0 = (s.vec .a).drop n then 1 else 0 := by
    rw [frameMatches, vec_length, hdrop]
    split
    next h => rw [decide_eq_true h]; rfl
    next h => rw [decide_eq_false h]; rfl
  have hop : ¬ badFrameOperands k.nsym s.arg0 s.arg1 = true := by
    rw [badFrameOperands_iff]
    omega
  have hlong : ¬ badFrameLength t.order s.arg0 s.arg1 (s.lenOf .a) = true := by
    rw [badFrameLength_iff]
    omega
  dsimp only [exec]
  rw [← hflag]
  exact completes_setRes0 (withCode_passed hr hv (check_passed hop (check_passed hlong
    (check_passed (not_someCellFrom hcells) rfl)))) ((Bool.toNat_lt _).trans (by decide))

/-- Settles O49. -/
theorem frameFixCompletes : Obligations.FrameFixCompletes := by
  intro s r hr hs hv k t hp hpe hlen hlen' hcells recv eras
  have hcode : CodeOver t k := hs.codeOver hv
  have hfixEq : rsFix t k s.arg1 (s.vec .a) = rsDecode t k recv eras := by
    have heras : List.range' (s.vec .a).length s.arg1 = eras := by
      rw [vec_length, List.range'_eq_map_range]
    rw [rsFix, heras]
  have hop : ¬ badFrameOperands k.nsym s.arg0 s.arg1 = true := by
    rw [badFrameOperands_iff]
    omega
  have hlong : ¬ badFrameLength t.order s.arg0 s.arg1 (s.lenOf .a) = true := by
    rw [badFrameLength_iff]
    omega
  refine ⟨fun d hd => ?fixed, fun c hc => ?failed⟩
  case failed =>
    have hnil : ∀ x ∈ ([] : List Nat), x < 2 ^ 8 := fun _ h => nomatch h
    have hw := ended_writeRQ_setRes01 (c := c) (s := s) (Nat.zero_le _) hnil (Nat.zero_le _) hnil 0 0
    exact ⟨_, execRsFix_error hr hv hop hlong hcells (hfixEq.trans hc),
      endsWith_endWith (by simp) (by simp), hw, rfl, rfl, rfl, rfl⟩
  case fixed =>
    obtain ⟨word, count, hsplit, hword, -, hcount⟩ := rsDecode_ok_word hd
    have hrecv : ∀ x ∈ recv, x < 2 ^ 8 := append_lt (hcode.lt_symbol hcells) (replicate_zero_lt 8 _)
    obtain ⟨hmsg, hpar⟩ := (opsBelow_symbol t).rsDecode (RsSlot.a_lt_symbol k) hrecv hd
    have hrl : recv.length = s.lenOf .a + s.arg1 := by
      rw [List.length_append, List.length_replicate, vec_length]
    have hfit := hcode.word_le hlen'
    have hml : d.msg.length = s.lenOf .a - s.arg0 := by
      rw [hsplit, splitWord_msg_length, hword, hrl]
      omega
    have hpl : (d.par.take s.arg0).length = s.arg0 := by
      rw [List.length_take, hsplit, splitWord_par_length (by omega)]
      omega
    have hc : d.count ≤ VLEN := by
      rw [hsplit]
      exact (hcount.trans_eq hrl).trans hfit
    have hw := ended_writeRQ_setRes01 (c := .ok) (s := s) (hml.trans_le (by omega)) hmsg (hpl.trans_le (by omega))
      (fun x hx => hpar x (List.mem_of_mem_take hx))
      1 d.count
    exact ⟨_, execRsFix_ok hr hv hop hlong hcells (hfixEq.trans hd), endsOk_endWith (by simp) (by simp), hw,
      hw.outputR.len.trans hml, hw.outputQ.len.trans hpl, rfl, word32_toNat _ (length_lt_of_le_VLEN hc), rfl, rfl⟩

end Sys2Proof.Machine
end

section
/-! PROOFS. Sequences of symbols as polynomials over the field of the elements (41_field_engine.md R113; 43_reed_solomon.md
R151, R154, R159), the generator polynomial's roots, and the systematic codewords. -/

namespace Sys2Proof.Machine

open Sys2Proof.Config
open Polynomial

/-- Every cell is an element of the field. -/
abbrev Elements (t : FieldSlot) (p : List Nat) : Prop := ∀ x ∈ p, x < 2 ^ t.m

namespace FieldModel

variable {t : FieldSlot} {F : Type} [Field F] (M : FieldModel t F) {p q : List Nat}

include M in
/-- The field has characteristic 2. -/
theorem charP : CharP F 2 :=
  CharTwo.of_one_ne_zero_of_two_eq_zero one_ne_zero (one_add_one_eq_two.symm.trans (M.add_self 1))

/-! ### Low-order first -/

/-- The polynomial of a sequence, low-order first. -/
noncomputable def low : List Nat → F[X]
  | [] => 0
  | a :: p => C (M.toF a) + X * low p

theorem low_cons (a : Nat) (p : List Nat) : M.low (a :: p) = C (M.toF a) + X * M.low p := rfl

theorem coeff_low (p : List Nat) (i : Nat) : (M.low p).coeff i = M.toF (p.getD i 0) := by
  induction p generalizing i with
  | nil => simp [low, M.zero]
  | cons a p ih =>
    cases i with
    | zero => simp [low]
    | succ i => rw [low_cons, coeff_add, coeff_X_mul, ih, coeff_C_succ, zero_add, List.getD_cons_succ]

theorem low_append (p q : List Nat) : M.low (p ++ q) = M.low p + X ^ p.length * M.low q := by
  induction p with
  | nil => simp [low]
  | cons a p ih =>
    rw [List.cons_append, low_cons, low_cons, ih, List.length_cons]
    ring

theorem low_replicate_zero (n : Nat) : M.low (List.replicate n 0) = 0 := by
  induction n with
  | zero => rfl
  | succ n ih => rw [List.replicate_succ, low_cons, ih, M.zero, C_0, mul_zero, zero_add]

theorem low_append_zeros (p : List Nat) (n : Nat) : M.low (p ++ List.replicate n 0) = M.low p := by
  rw [low_append, low_replicate_zero, mul_zero, add_zero]

theorem low_cons_zero (p : List Nat) : M.low (0 :: p) = X * M.low p := by
  rw [low_cons, M.zero, C_0, zero_add]

theorem natDegree_low_lt (hp : p ≠ []) : (M.low p).natDegree < p.length := by
  have hpos := List.length_pos_iff.2 hp
  refine Nat.lt_of_le_pred hpos (natDegree_le_iff_coeff_eq_zero.2 fun i hi => ?_)
  rw [coeff_low, List.getD_eq_default _ _ (Nat.le_of_pred_lt hi), M.zero]

theorem low_take (p : List Nat) (n i : Nat) : (M.low (p.take n)).coeff i = if i < n then (M.low p).coeff i else 0 := by
  rw [coeff_low, coeff_low, List.getD_eq_getElem?_getD, List.getElem?_take]
  split
  · rw [List.getD_eq_getElem?_getD]
  · exact M.zero

theorem low_xorLists (hlen : p.length = q.length) (hp : Elements t p) (hq : Elements t q) :
    M.low (xorLists p q) = M.low p + M.low q := by
  ext i
  rw [coeff_add, coeff_low, coeff_low, coeff_low, xorLists_getD hlen, M.xor (getD_lt hp i) (getD_lt hq i)]

theorem low_xorPad (hp : Elements t p) (hq : Elements t q) : M.low (xorPad p q) = M.low p + M.low q := by
  rw [xorPad, M.low_xorLists _ (append_lt hp (replicate_zero_lt _ _)) (append_lt hq (replicate_zero_lt _ _)),
    low_append_zeros, low_append_zeros]
  rw [List.length_append, List.length_append, List.length_replicate, List.length_replicate]
  omega

theorem low_polyScale {c : Nat} (hp : Elements t p) (hc : c < 2 ^ t.m) :
    M.low (polyScale t p c) = C (M.toF c) * M.low p := by
  induction p with
  | nil => exact (mul_zero _).symm
  | cons a p ih =>
    obtain ⟨ha, hp⟩ := List.forall_mem_cons.1 hp
    rw [polyScale, List.map_cons, low_cons, low_cons, M.mul ha hc, ← polyScale, ih hp, C_mul]
    ring

theorem low_scaleLeft {c : Nat} (hp : Elements t p) (hc : c < 2 ^ t.m) :
    M.low (p.map fun a => gfMul t c a) = C (M.toF c) * M.low p := by
  induction p with
  | nil => exact (mul_zero _).symm
  | cons a p ih =>
    obtain ⟨ha, hp⟩ := List.forall_mem_cons.1 hp
    rw [List.map_cons, low_cons, low_cons, M.mul hc ha, ih hp, C_mul]
    ring

/-- One factor of a locator (R159). -/
theorem low_timesRoot {x : Nat} (hp : Elements t p) (hx : x < 2 ^ t.m) :
    M.low (timesRoot t p x) = M.low p * (1 + C (M.toF x) * X) := by
  change M.low (xorLists (p ++ List.replicate 1 0) (0 :: polyScale t p x)) = _
  rw [M.low_xorLists _ (append_lt hp (replicate_zero_lt _ 1))
    (cons_lt (Nat.two_pow_pos _) (M.opsBelow.polyScale hp hx)), low_append_zeros, low_cons_zero, M.low_polyScale hp hx]
  · ring
  · rw [List.length_append, List.length_replicate, List.length_cons, polyScale_length]

/-- A locator is the product of its factors (R159, R163). -/
theorem low_locatorOf {xs : List Nat} (hxs : Elements t xs) :
    M.low (locatorOf t xs) = (xs.map fun x => 1 + C (M.toF x) * X).prod := by
  induction xs using List.reverseRecOn with
  | nil => simp [locatorOf, low, M.one]
  | append_singleton xs x ih =>
    obtain ⟨hxs, hx⟩ := List.forall_mem_append.1 hxs
    have hsplit : locatorOf t (xs ++ [x]) = timesRoot t (locatorOf t xs) x := by
      rw [locatorOf, List.foldl_append]
      rfl
    rw [hsplit, M.low_timesRoot (M.opsBelow.locatorOf hxs) (hx x (List.mem_singleton_self x)), ih hxs, List.map_append,
      List.prod_append, List.map_singleton, List.prod_singleton]

theorem low_polyMul (hp : Elements t p) (hq : Elements t q) (hne : q ≠ []) :
    M.low (polyMul t p q) = M.low p * M.low q := by
  induction p with
  | nil => rw [polyMul, low_replicate_zero, low, zero_mul]
  | cons a p ih =>
    obtain ⟨ha, hp⟩ := List.forall_mem_cons.1 hp
    have hpos := List.length_pos_iff.2 hne
    rw [polyMul, M.low_xorLists _ (append_lt (M.opsBelow.scaleLeft hq ha) (replicate_zero_lt _ _))
      (cons_lt (Nat.two_pow_pos _) (M.opsBelow.polyMul hp hq)), low_append_zeros, M.low_scaleLeft hq ha, low_cons_zero,
      ih hp, low_cons]
    · ring
    · rw [List.length_append, List.length_map, List.length_replicate, List.length_cons, polyMul_length _ _ _ hne]
      omega

/-! ### Most significant first -/

/-- The polynomial of a sequence, most significant coefficient first. -/
noncomputable def high (p : List Nat) : F[X] := M.low p.reverse

theorem high_append (p q : List Nat) : M.high (p ++ q) = M.high q + X ^ q.length * M.high p := by
  rw [high, List.reverse_append, low_append, List.length_reverse]
  rfl

theorem high_singleton (a : Nat) : M.high [a] = C (M.toF a) := by
  rw [high, List.reverse_singleton, low_cons, low, mul_zero, add_zero]

theorem high_cons (a : Nat) (p : List Nat) : M.high (a :: p) = M.high p + X ^ p.length * C (M.toF a) := by
  rw [← List.singleton_append, high_append, high_singleton]

theorem high_cons_zero (p : List Nat) : M.high (0 :: p) = M.high p := by
  rw [high_cons, M.zero, C_0, mul_zero, add_zero]

theorem high_replicate_zero (n : Nat) : M.high (List.replicate n 0) = 0 := by
  rw [high, List.reverse_replicate, low_replicate_zero]

theorem high_xorLists (hlen : p.length = q.length) (hp : Elements t p) (hq : Elements t q) :
    M.high (xorLists p q) = M.high p + M.high q := by
  have hrev : (xorLists p q).reverse = xorLists p.reverse q.reverse := List.reverse_zipWith hlen
  rw [high, hrev, M.low_xorLists (by rw [List.length_reverse, List.length_reverse, hlen])
    (fun x hx => hp x (List.mem_reverse.1 hx)) fun x hx => hq x (List.mem_reverse.1 hx)]
  rfl

theorem high_polyScale {c : Nat} (hp : Elements t p) (hc : c < 2 ^ t.m) :
    M.high (polyScale t p c) = C (M.toF c) * M.high p := by
  rw [high, polyScale, ← List.map_reverse]
  exact M.low_polyScale (fun x hx => hp x (List.mem_reverse.1 hx)) hc

theorem high_scaleLeft {c : Nat} (hp : Elements t p) (hc : c < 2 ^ t.m) :
    M.high (p.map fun a => gfMul t c a) = C (M.toF c) * M.high p := by
  rw [high, ← List.map_reverse]
  exact M.low_scaleLeft (fun x hx => hp x (List.mem_reverse.1 hx)) hc

theorem high_polyMul (hp : Elements t p) (hq : Elements t q) (hne : q ≠ []) :
    M.high (polyMul t p q) = M.high p * M.high q := by
  induction p with
  | nil => rw [polyMul, high_replicate_zero, high, List.reverse_nil, low, zero_mul]
  | cons a p ih =>
    obtain ⟨ha, hp⟩ := List.forall_mem_cons.1 hp
    have hpos := List.length_pos_iff.2 hne
    rw [polyMul, M.high_xorLists _ (append_lt (M.opsBelow.scaleLeft hq ha) (replicate_zero_lt _ _))
      (cons_lt (Nat.two_pow_pos _) (M.opsBelow.polyMul hp hq)), high_append, high_replicate_zero, List.length_replicate,
      M.high_scaleLeft hq ha, high_cons_zero, ih hp, high_cons]
    · ring
    · rw [List.length_append, List.length_map, List.length_replicate, List.length_cons, polyMul_length _ _ _ hne]
      omega

/-- Horner's value is the polynomial's (R113). -/
theorem toF_polyEval_high {x : Nat} (hp : Elements t p) (hx : x < 2 ^ t.m) :
    M.toF (polyEval t p x) = (M.high p).eval (M.toF x) := by
  induction p using List.reverseRecOn with
  | nil => simp [polyEval, high, low, M.zero]
  | append_singleton p a ih =>
    obtain ⟨hp, ha⟩ := List.forall_mem_append.1 hp
    have ha := ha a (List.mem_singleton_self a)
    have hval := M.opsBelow.polyEval hp hx
    rw [polyEval_concat, M.xor (M.mul_lt hval hx) ha, M.mul hval hx, ih hp, high_append, high_singleton,
      List.length_singleton, pow_one, eval_add, eval_C, eval_mul, eval_X]
    ring

theorem polyEval_eq_zero_iff {x : Nat} (hp : Elements t p) (hx : x < 2 ^ t.m) :
    polyEval t p x = 0 ↔ (M.high p).eval (M.toF x) = 0 := by
  rw [← M.toF_polyEval_high hp hx, M.toF_eq_zero_iff (M.opsBelow.polyEval hp hx)]

end FieldModel

/-! ### Encoding (R151, R154) -/

namespace CodeOver

variable {t : FieldSlot} {k : RsSlot} (h : CodeOver t k) {F : Type} [Field F] (M : FieldModel t F)

include h

theorem a_lt : k.a < 2 ^ t.m := h.gen ▸ h.built.primitive.gen_lt

theorem toF_a : M.toF k.a = M.alpha := by rw [h.gen]; rfl

/-- A power of the code's generator element. -/
theorem toF_gfPow_a (p : Int) : M.toF (gfPow t k.a p) = M.alpha ^ p := by
  rw [(M.toF_gfPow h.a_lt p).2, h.toF_a M]

theorem gfPow_a_lt (p : Int) : gfPow t k.a p < 2 ^ t.m := by
  obtain ⟨F, _, ⟨M⟩⟩ := h.built.exists_model
  exact M.gfPow_lt h.a_lt p

/-- The generator polynomial is the product of its factors (R151). -/
theorem high_rsGenpoly (n : Nat) :
    M.high (rsGenpoly t n k.fcr k.a) = ∏ i ∈ Finset.range n, (X + C (M.alpha ^ (k.fcr + i))) := by
  induction n with
  | zero => rw [rsGenpoly, List.range_zero, List.foldl_nil, M.high_singleton, M.one]; rfl
  | succ n ih =>
    have hroot := h.gfPow_a_lt ((k.fcr + n : Nat) : Int)
    rw [rsGenpoly_succ, M.high_polyMul (M.opsBelow.rsGenpoly h.a_lt n k.fcr)
      (cons_lt M.one_lt (cons_lt hroot fun _ hx => absurd hx List.not_mem_nil)) (List.cons_ne_nil _ _), ih,
      Finset.prod_range_succ, M.high_cons, M.high_singleton, h.toF_gfPow_a M, zpow_natCast, M.one]
    simp [add_comm]

theorem eval_genpoly {n i : Nat} (hi : i < n) :
    (M.high (rsGenpoly t n k.fcr k.a)).eval (M.alpha ^ (k.fcr + i)) = 0 := by
  rw [h.high_rsGenpoly M, eval_prod]
  refine Finset.prod_eq_zero (Finset.mem_range.2 hi) ?_
  rw [eval_add, eval_X, eval_C, M.add_self]

theorem genAt_lt (j : Nat) : k.genAt j < 2 ^ t.m := by
  obtain ⟨F, _, ⟨M⟩⟩ := h.built.exists_model
  rw [genAt_eq, h.genpoly]
  exact getD_lt (M.opsBelow.rsGenpoly h.a_lt _ _) j

theorem rsGenpoly_eq_cons : rsGenpoly t k.nsym k.fcr k.a = 1 :: k.genTail := by
  have hmap := h.map_genAt.trans h.genpoly
  rw [List.range_succ_eq_map, List.map_cons, List.map_map] at hmap
  have hhead := rsGenpoly_head h.built k.nsym k.fcr k.a
  rw [← hmap, List.head?_cons, Option.some_inj] at hhead
  rw [← hmap, hhead]
  rfl

end CodeOver

theorem FieldModel.high_xorPrefix {t : FieldSlot} {F : Type} [Field F] (M : FieldModel t F) {out xs : List Nat}
    (hlen : xs.length ≤ out.length) (hout : Elements t out) (hxs : Elements t xs) :
    M.high (xorPrefix out xs) = M.high out + X ^ (out.length - xs.length) * M.high xs := by
  induction out generalizing xs with
  | nil =>
    obtain rfl := List.eq_nil_of_length_eq_zero (Nat.le_zero.1 hlen)
    simp [xorPrefix, FieldModel.high, FieldModel.low]
  | cons o out ih =>
    cases xs with
    | nil => simp [xorPrefix, FieldModel.high, FieldModel.low]
    | cons x xs =>
      obtain ⟨ho, hout⟩ := List.forall_mem_cons.1 hout
      obtain ⟨hx, hxs⟩ := List.forall_mem_cons.1 hxs
      rw [List.length_cons, List.length_cons, Nat.succ_le_succ_iff] at hlen
      have hpow : (X : F[X]) ^ out.length = X ^ (out.length - xs.length) * X ^ xs.length := by
        rw [← pow_add, Nat.sub_add_cancel hlen]
      rw [xorPrefix, M.high_cons, xorPrefix_length, ih hlen hout hxs, M.high_cons, M.high_cons, M.xor ho hx, C_add,
        List.length_cons, List.length_cons, Nat.add_sub_add_right, hpow]
      ring

/-- The division loop leaves a remainder by the monic polynomial with the lower coefficients `g` (R154). -/
theorem FieldModel.high_rsDivide {t : FieldSlot} {F : Type} [Field F] (M : FieldModel t F) {g : List Nat}
    (hg : Elements t g) (steps : Nat) {out : List Nat} (hlen : steps + g.length ≤ out.length) (hout : Elements t out) :
    ∃ q, M.high out = q * M.high (1 :: g) + M.high (rsDivide t g steps out) := by
  have := M.charP
  induction steps generalizing out with
  | zero => exact ⟨0, by rw [zero_mul, zero_add, rsDivide]⟩
  | succ steps ih =>
    cases out with
    | nil => simp at hlen
    | cons c out =>
      obtain ⟨hc, hout⟩ := List.forall_mem_cons.1 hout
      rw [List.length_cons] at hlen
      rw [rsDivide]
      split
      next hc0 =>
        rw [hc0, M.high_cons_zero]
        exact ih (by omega) hout
      next =>
        have hscaled := M.opsBelow.polyScale hg hc
        have hglen : (polyScale t g c).length = g.length := polyScale_length t g c
        obtain ⟨q, hq⟩ := ih (out := xorPrefix out (polyScale t g c)) (by rw [xorPrefix_length]; omega)
          (xorPrefix_lt hout hscaled)
        have hpow : (X : F[X]) ^ out.length = X ^ (out.length - g.length) * X ^ g.length := by
          rw [← pow_add, Nat.sub_add_cancel (by omega)]
        rw [M.high_xorPrefix (by rw [hglen]; omega) hout hscaled, hglen, M.high_polyScale hg hc] at hq
        refine ⟨q + X ^ (out.length - g.length) * C (M.toF c), ?_⟩
        have hmonic : M.high (1 :: g) = M.high g + X ^ g.length := by rw [M.high_cons, M.one, C_1, mul_one]
        rw [M.high_cons, hpow]
        rw [hmonic] at hq ⊢
        rw [← polyScale]
        linear_combination hq - CharTwo.add_self_eq_zero (X ^ (out.length - g.length) * (C (M.toF c) * M.high g))

namespace CodeOver

variable {t : FieldSlot} {k : RsSlot} (h : CodeOver t k)

include h

theorem genTail_elements : Elements t k.genTail := by
  intro x hx
  obtain ⟨j, -, rfl⟩ := List.mem_map.1 hx
  exact h.genAt_lt _

theorem rsEncode_elements {msg : List Nat} (hmsg : Elements t msg) : Elements t (rsEncode t k msg) := by
  obtain ⟨F, _, ⟨M⟩⟩ := h.built.exists_model
  exact M.opsBelow.rsEncode h.genAt_lt hmsg

/-- A codeword is a multiple of the generator polynomial (R154). -/
theorem high_rsEncode {F : Type} [Field F] (M : FieldModel t F) {msg : List Nat} (hmsg : Elements t msg) :
    ∃ q, M.high (rsEncode t k msg) = q * M.high (rsGenpoly t k.nsym k.fcr k.a) := by
  have := M.charP
  have htail : k.genTail.length = k.nsym := by rw [RsSlot.genTail, List.length_map, List.length_range]
  obtain ⟨q, hq⟩ := M.high_rsDivide h.genTail_elements msg.length (out := msg ++ List.replicate k.nsym 0)
    (by rw [List.length_append, List.length_replicate, htail]) (append_lt hmsg (replicate_zero_lt _ _))
  rw [M.high_append, M.high_replicate_zero, zero_add, List.length_replicate, ← h.rsGenpoly_eq_cons] at hq
  refine ⟨q, ?_⟩
  rw [rsEncode, M.high_append, rsParity_length, hq]
  exact (congrArg _ (add_comm ..)).trans (CharTwo.add_cancel_left _ _)

/-- The syndromes are all zero for a codeword. -/
theorem rsSyndromes_rsEncode {msg : List Nat} (hmsg : Elements t msg) :
    rsSyndromes t k (rsEncode t k msg) = List.replicate k.nsym 0 := by
  obtain ⟨F, _, ⟨M⟩⟩ := h.built.exists_model
  obtain ⟨q, hq⟩ := h.high_rsEncode M hmsg
  refine List.eq_replicate_iff.2 ⟨rsSyndromes_length t k _, fun x hx => ?_⟩
  obtain ⟨i, hi, rfl⟩ := List.mem_map.1 hx
  rw [M.polyEval_eq_zero_iff (h.rsEncode_elements hmsg) (h.gfPow_a_lt _), hq, eval_mul, h.toF_gfPow_a M, zpow_natCast,
    h.eval_genpoly M (List.mem_range.1 hi), mul_zero]

end CodeOver

/-- Settles O40. -/
theorem encodedWordsAreCodewords : Obligations.EncodedWordsAreCodewords := by
  intro s r hr hs hv k t
  have hcode : CodeOver t k := hs.codeOver hv
  obtain ⟨F, _, ⟨M⟩⟩ := hcode.built.exists_model
  refine ⟨fun i hi => ?root, fun msg hne hlen hmsg => ?_⟩
  case root =>
    rw [hcode.genpoly, M.polyEval_eq_zero_iff (M.opsBelow.rsGenpoly hcode.a_lt _ _) (hcode.gfPow_a_lt _),
      hcode.toF_gfPow_a M, zpow_natCast, hcode.eval_genpoly M hi]
  have hlength := rsEncode_length t k msg
  have hzero := hcode.rsSyndromes_rsEncode hmsg
  refine ⟨hlength, List.take_left, hcode.rsEncode_elements hmsg, hzero, fun eras => ?_⟩
  have hall : allZero (rsSyndromes t k (rsEncode t k msg)) = true := by
    rw [hzero]
    exact allZero_iff.2 fun x hx => List.eq_of_mem_replicate hx
  refine (if_pos hall).trans ?_
  rw [splitWord, hlength, Nat.add_sub_cancel]
  exact congrArg Except.ok (congrArg (Decoded.mk · _ 0) List.take_left)

end Sys2Proof.Machine
end

section
/-! PROOFS. Locators (43_reed_solomon.md R150, R159 to R164): their roots, the root search of `RS.EPOS`, and the magnitudes
of `RS.CORR`, whose denominator is the locator's derivative. -/

namespace Sys2Proof.Machine

open Sys2Proof.Config
open Polynomial

/-! ### Locators over a field of characteristic 2 -/

section Locator

variable {F : Type} [Field F]

/-- The factor of one locator value. -/
noncomputable def factor (c : F) : F[X] := 1 + C c * X

/-- The locator of a set of positions with locator values `x`. -/
noncomputable def locator (x : ℕ → F) (T : Finset ℕ) : F[X] := ∏ p ∈ T, factor (x p)

theorem factor_coeff_zero (c : F) : (factor c).coeff 0 = 1 := by simp [factor]

theorem factor_natDegree_le (c : F) : (factor c).natDegree ≤ 1 := by
  rw [factor, add_comm]
  exact natDegree_linear_le

theorem factor_natDegree {c : F} (hc : c ≠ 0) : (factor c).natDegree = 1 := by
  rw [factor, add_comm]
  exact natDegree_linear hc

theorem factor_ne_zero (c : F) : factor c ≠ 0 := fun h => by
  have h0 := factor_coeff_zero c
  rw [h, coeff_zero] at h0
  exact zero_ne_one h0

theorem derivative_factor (c : F) : derivative (factor c) = C c := by simp [factor]

theorem list_prod_factor_coeff_zero (cs : List F) : (cs.map factor).prod.coeff 0 = 1 := by
  induction cs with
  | nil => simp
  | cons c cs ih => rw [List.map_cons, List.prod_cons, mul_coeff_zero, ih, factor_coeff_zero, one_mul]

theorem list_prod_factor_natDegree_le (cs : List F) : (cs.map factor).prod.natDegree ≤ cs.length := by
  induction cs with
  | nil => simp
  | cons c cs ih =>
    rw [List.map_cons, List.prod_cons, List.length_cons, Nat.add_comm]
    exact natDegree_mul_le.trans (Nat.add_le_add (factor_natDegree_le c) ih)

variable {x : ℕ → F} {T : Finset ℕ}

theorem locator_coeff_zero : (locator x T).coeff 0 = 1 := by
  rw [locator, coeff_zero_prod]
  exact Finset.prod_eq_one fun p _ => factor_coeff_zero _

theorem locator_natDegree (hx : ∀ p ∈ T, x p ≠ 0) : (locator x T).natDegree = T.card := by
  rw [locator, natDegree_prod _ _ fun p _ => factor_ne_zero _, Finset.sum_congr rfl fun p hp => factor_natDegree (hx p hp),
    Finset.sum_const, smul_eq_mul, mul_one]

theorem locator_eq_mul_erase {p : ℕ} (hp : p ∈ T) : locator x T = factor (x p) * locator x (T.erase p) :=
  (Finset.mul_prod_erase T _ hp).symm

theorem locator_of_nodup {pos : List ℕ} (h : pos.Nodup) : (pos.map fun p => factor (x p)).prod = locator x pos.toFinset :=
  (List.prod_toFinset _ h).symm

section CharTwo

variable [CharP F 2]

theorem factor_eval_inv {c : F} (hc : c ≠ 0) : (factor c).eval c⁻¹ = 0 := by
  simp [factor, hc, CharTwo.add_self_eq_zero]

theorem factor_eval_inv_eq_zero_iff {c d : F} (hd : d ≠ 0) : (factor c).eval d⁻¹ = 0 ↔ c = d := by
  rw [factor, eval_add, eval_one, eval_mul, eval_C, eval_X, ← div_eq_mul_inv, CharTwo.add_eq_zero, eq_comm,
    div_eq_one_iff_eq hd]

/-- The roots of a locator are the inverse locator values. -/
theorem locator_eval_inv_eq_zero_iff {d : F} (hd : d ≠ 0) : (locator x T).eval d⁻¹ = 0 ↔ ∃ p ∈ T, x p = d := by
  rw [locator, eval_prod, Finset.prod_eq_zero_iff]
  exact exists_congr fun p => and_congr_right fun _ => factor_eval_inv_eq_zero_iff hd

/-- The derivative at a root: the locator of the other positions remains. -/
theorem derivative_locator_eval {p : ℕ} (hp : p ∈ T) (hx : x p ≠ 0) :
    (derivative (locator x T)).eval (x p)⁻¹ = x p * (locator x (T.erase p)).eval (x p)⁻¹ := by
  rw [locator_eq_mul_erase hp, derivative_mul, derivative_factor, eval_add, eval_mul, eval_mul, eval_C, factor_eval_inv hx,
    zero_mul, add_zero]

theorem locator_erase_eval_ne_zero {p : ℕ} (hp : p ∈ T) (hinj : Set.InjOn x T) (hx : x p ≠ 0) :
    (locator x (T.erase p)).eval (x p)⁻¹ ≠ 0 := by
  rw [ne_eq, locator_eval_inv_eq_zero_iff hx]
  rintro ⟨q, hq, heq⟩
  obtain ⟨hne, hq⟩ := Finset.mem_erase.1 hq
  exact hne (hinj hq hp heq)

/-- A factor that occurs twice is a root of the derivative. -/
theorem derivative_eval_of_double {c : F} (hc : c ≠ 0) (R : F[X]) :
    (derivative (factor c * (factor c * R))).eval c⁻¹ = 0 := by
  rw [derivative_mul, eval_add, eval_mul, eval_mul, eval_mul, factor_eval_inv hc, zero_mul, mul_zero, zero_mul, add_zero]

end CharTwo

end Locator

/-- A repeated entry of a list gives a repeated factor of any product over the list. -/
theorem exists_double_of_not_nodup {α R : Type} [CommMonoid R] {l : List α} (h : ¬ l.Nodup) (f : α → R) :
    ∃ a ∈ l, ∃ r, (l.map f).prod = f a * (f a * r) := by
  induction l with
  | nil => exact absurd List.nodup_nil h
  | cons b l ih =>
    by_cases hb : b ∈ l
    · obtain ⟨l₁, l₂, rfl⟩ := List.append_of_mem hb
      refine ⟨b, List.mem_cons_self .., ((l₁ ++ l₂).map f).prod, ?_⟩
      simp only [List.map_cons, List.map_append, List.prod_cons, List.prod_append]
      rw [mul_left_comm (l₁.map f).prod]
    · obtain ⟨a, ha, r, hr⟩ := ih fun hl => h (List.nodup_cons.2 ⟨hb, hl⟩)
      refine ⟨a, List.mem_cons_of_mem _ ha, f b * r, ?_⟩
      rw [List.map_cons, List.prod_cons, hr, mul_left_comm, mul_left_comm (f b)]

/-! ### Locator values (R150) -/

namespace FieldModel

variable {t : FieldSlot} {F : Type} [Field F] (M : FieldModel t F)

/-- The locator value of array index `p` in a word of length `n` (R150). -/
def locAt (n p : ℕ) : F := M.alpha ^ (n - 1 - p)

theorem locAt_ne_zero (n p : ℕ) : M.locAt n p ≠ 0 := pow_ne_zero _ M.alpha_ne_zero

/-- Different positions of a word have different locator values. -/
theorem locAt_inj {n p q : ℕ} (hn : n ≤ t.order) (hp : p < n) (hq : q < n) (h : M.locAt n p = M.locAt n q) : p = q := by
  have := M.alpha_pow_inj (by omega) (by omega) h
  omega

theorem locAt_injOn {n : ℕ} (hn : n ≤ t.order) {T : Finset ℕ} (hT : ∀ p ∈ T, p < n) : Set.InjOn (M.locAt n) T :=
  fun _ hp _ hq h => M.locAt_inj hn (hT _ hp) (hT _ hq) h

/-! ### Magnitudes (R163) -/

theorem eval_low {p : List Nat} (z : F) : (M.low p).eval z = ∑ j ∈ Finset.range p.length, M.toF (p.getD j 0) * z ^ j := by
  by_cases hp : p = []
  · subst hp
    simp [low]
  · rw [eval_eq_sum_range' (M.natDegree_low_lt hp)]
    exact Finset.sum_congr rfl fun j _ => by rw [coeff_low]

omit M in
/-- The terms of a sum moved down by one place, where nothing is lost at either end. -/
theorem sum_range_shift {n : ℕ} {f : ℕ → F} (h0 : f 0 = 0) (hn : f n = 0) :
    ∑ j ∈ Finset.range n, f j = ∑ j ∈ Finset.range n, f (j + 1) := by
  have h := (Finset.sum_range_succ f n).symm.trans (Finset.sum_range_succ' f n)
  rwa [h0, hn, add_zero, add_zero] at h

/-- In characteristic 2 the derivative keeps the odd places. -/
theorem eval_derivative_low {p : List Nat} (z : F) :
    (derivative (M.low p)).eval z =
      ∑ j ∈ Finset.range p.length, if j % 2 = 1 then M.toF (p.getD j 0) * z ^ (j - 1) else 0 := by
  have := M.charP
  by_cases hp : p = []
  · subst hp
    simp [low]
  have hdeg : (derivative (M.low p)).natDegree < p.length :=
    (natDegree_derivative_le _).trans_lt ((Nat.sub_le ..).trans_lt (M.natDegree_low_lt hp))
  have hlast : (if p.length % 2 = 1 then M.toF (p.getD p.length 0) * z ^ (p.length - 1) else 0) = 0 := by
    rw [List.getD_eq_default _ _ le_rfl, M.zero, zero_mul, ite_self]
  refine (eval_eq_sum_range' hdeg _).trans (Eq.trans ?_ (sum_range_shift (by simp) hlast).symm)
  refine Finset.sum_congr rfl fun j _ => ?_
  rw [coeff_derivative, coeff_low, ← Nat.cast_succ, CharP.cast_eq_mod F 2]
  obtain h | h := Nat.mod_two_eq_zero_or_one (j + 1)
  · simp [h]
  · simp [h]

variable {lo om : List Nat} {x : Nat}

/-- The magnitude at a locator value exists where the derivative is not 0, and is the evaluator's value over it (R163). -/
theorem magnitude_eq (hlo : Elements t lo) (hom : Elements t om) (hx : x < 2 ^ t.m) (hx0 : M.toF x ≠ 0) (fcr : Nat) :
    ((derivative (M.low lo)).eval (M.toF x)⁻¹ = 0 → magnitude t fcr lo om x = none) ∧
      ((derivative (M.low lo)).eval (M.toF x)⁻¹ ≠ 0 → ∃ y, magnitude t fcr lo om x = some y ∧ y < 2 ^ t.m ∧
        M.toF y = M.toF x ^ (1 - (fcr : Int)) * (M.low om).eval (M.toF x)⁻¹ /
          (derivative (M.low lo)).eval (M.toF x)⁻¹) := by
  obtain ⟨xi, hxi, hxilt, hxieq⟩ := M.gfInv_eq_some hx fun h => hx0 (h ▸ M.zero)
  have hnumTerm : ∀ j < om.length, gfMul t (om.getD j 0) (gfPow t xi (j : Int)) < 2 ^ t.m := fun j _ =>
    M.mul_lt (getD_lt hom j) (M.gfPow_lt hxilt _)
  have hdenTerm : ∀ j < lo.length,
      (if j % 2 = 1 then gfMul t (lo.getD j 0) (gfPow t xi ((j : Int) - 1)) else 0) < 2 ^ t.m := fun j _ => by
    split
    · exact M.mul_lt (getD_lt hlo j) (M.gfPow_lt hxilt _)
    · exact Nat.two_pow_pos _
  have hnum : M.toF (gfSum om.length fun j => gfMul t (om.getD j 0) (gfPow t xi (j : Int))) =
      (M.low om).eval (M.toF x)⁻¹ := by
    rw [M.toF_gfSum hnumTerm, M.eval_low]
    refine Finset.sum_congr rfl fun j _ => ?_
    rw [M.mul (getD_lt hom j) (M.gfPow_lt hxilt _), (M.toF_gfPow hxilt _).2, hxieq, zpow_natCast]
  have hden : M.toF (gfSum lo.length fun j =>
      if j % 2 = 1 then gfMul t (lo.getD j 0) (gfPow t xi ((j : Int) - 1)) else 0) =
      (derivative (M.low lo)).eval (M.toF x)⁻¹ := by
    rw [M.toF_gfSum hdenTerm, M.eval_derivative_low]
    refine Finset.sum_congr rfl fun j _ => ?_
    split
    next hodd =>
      have hcast : (j : Int) - 1 = ((j - 1 : Nat) : Int) := by omega
      rw [M.mul (getD_lt hlo j) (M.gfPow_lt hxilt _), (M.toF_gfPow hxilt _).2, hxieq, hcast, zpow_natCast]
    next => exact M.zero
  have hdenlt := gfSum_lt hdenTerm
  have hfactor := M.gfPow_lt hx (1 - (fcr : Int))
  have hnumlt := M.mul_lt hfactor (gfSum_lt hnumTerm)
  have hunfold : magnitude t fcr lo om x = gfDiv t
      (gfMul t (gfPow t x (1 - (fcr : Int))) (gfSum om.length fun j => gfMul t (om.getD j 0) (gfPow t xi (j : Int))))
      (gfSum lo.length fun j => if j % 2 = 1 then gfMul t (lo.getD j 0) (gfPow t xi ((j : Int) - 1)) else 0) := by
    rw [magnitude, hxi]
  rw [hunfold, ← hden]
  refine ⟨fun h0 => ?_, fun hne => ?_⟩
  · rw [(M.toF_eq_zero_iff hdenlt).1 h0, gfDiv_zero]
  · obtain ⟨y, hy, hlt, heq⟩ := M.gfDiv_eq_some hnumlt hdenlt fun h0 => hne ((M.toF_eq_zero_iff hdenlt).2 h0)
    refine ⟨y, hy, hlt, ?_⟩
    rw [heq, M.mul hfactor (gfSum_lt hnumTerm), (M.toF_gfPow hx _).2, hnum]

end FieldModel

namespace CodeOver

variable {t : FieldSlot} {k : RsSlot} (h : CodeOver t k)

include h

theorem locatorValue_lt (p n : Nat) : locatorValue t k p n < 2 ^ t.m := h.gfPow_a_lt _

theorem locatorValues_elements (pos : List Nat) (n : Nat) : Elements t (pos.map fun p => locatorValue t k p n) := by
  intro x hx
  obtain ⟨p, -, rfl⟩ := List.mem_map.1 hx
  exact h.locatorValue_lt p n

variable {F : Type} [Field F] (M : FieldModel t F)

theorem toF_locatorValue {p n : Nat} (hp : p < n) : M.toF (locatorValue t k p n) = M.locAt n p := by
  have hcast : (n : Int) - 1 - (p : Int) = ((n - 1 - p : Nat) : Int) := by omega
  rw [locatorValue, h.toF_gfPow_a M, hcast, zpow_natCast, FieldModel.locAt]

theorem low_locatorOf {pos : List Nat} {n : Nat} (hpos : ∀ p ∈ pos, p < n) :
    M.low (locatorOf t (pos.map fun p => locatorValue t k p n)) = (pos.map fun p => factor (M.locAt n p)).prod := by
  rw [M.low_locatorOf (h.locatorValues_elements pos n), List.map_map]
  refine congrArg List.prod (List.map_congr_left fun p hp => ?_)
  rw [Function.comp_apply, h.toF_locatorValue M (hpos p hp), factor]

end CodeOver

/-! ### Corrections (R163) -/

section Errata

variable {t : FieldSlot} {k : RsSlot} {lo om : List Nat} {n : Nat} {pos recv : List Nat}

/-- One magnitude that is undefined stops the correction. -/
theorem applyErrata_eq_none {p : Nat} (hp : p ∈ pos) (h : magnitude t k.fcr lo om (locatorValue t k p n) = none) :
    applyErrata t k lo om n pos recv = none := by
  induction pos generalizing recv with
  | nil => cases hp
  | cons q rest ih =>
    rw [applyErrata]
    obtain rfl | hp := List.mem_cons.1 hp
    · rw [h]
    · split
      · rfl
      · exact ih hp

/-- With all magnitudes defined, each is added at its position. -/
theorem applyErrata_eq_some {y : Nat → Nat}
    (h : ∀ p ∈ pos, magnitude t k.fcr lo om (locatorValue t k p n) = some (y p)) :
    applyErrata t k lo om n pos recv = some (pos.foldl (fun out p => out.modify p (· ^^^ y p)) recv) := by
  induction pos generalizing recv with
  | nil => rfl
  | cons q rest ih =>
    obtain ⟨hq, hrest⟩ := List.forall_mem_cons.1 h
    rw [applyErrata, hq]
    exact ih hrest

end Errata

/-- The positions whose inverse locator values are roots, in the order of the search (R161). -/
def rootPositions (t : FieldSlot) (k : RsSlot) (lead : List Nat) (n : Nat) : List Nat :=
  ((List.range n).filter fun (i : Nat) => polyEval t lead (gfPow t k.a (-(i : Int))) == 0).map fun i => n - 1 - i

theorem rsEpos_eq (t : FieldSlot) (k : RsSlot) (loc : List Nat) (n : Nat) :
    rsEpos t k loc n =
      if (rootPositions t k (stripLeading loc) n).length = (stripLeading loc).length - 1 then
        some (rootPositions t k (stripLeading loc) n)
      else none := rfl

theorem mem_rootPositions {t : FieldSlot} {k : RsSlot} {lead : List Nat} {n p : Nat} :
    p ∈ rootPositions t k lead n ↔ p < n ∧ polyEval t lead (gfPow t k.a (-((n - 1 - p : Nat) : Int))) = 0 := by
  simp only [rootPositions, List.mem_map, List.mem_filter, List.mem_range, beq_iff_eq]
  constructor
  · rintro ⟨i, ⟨hi, hroot⟩, rfl⟩
    rw [Nat.sub_sub_self (Nat.le_sub_one_of_lt hi)]
    exact ⟨by omega, hroot⟩
  · rintro ⟨hp, hroot⟩
    exact ⟨n - 1 - p, ⟨by omega, hroot⟩, by omega⟩

theorem rootPositions_descending (t : FieldSlot) (k : RsSlot) (lead : List Nat) (n : Nat) :
    (rootPositions t k lead n).Pairwise fun p q => q < p := by
  refine List.pairwise_map.2 ((List.pairwise_lt_range.filter _).imp_of_mem fun {i j} _ hj hlt => ?_)
  have hj := List.mem_range.1 (List.mem_of_mem_filter hj)
  omega

theorem rootPositions_nodup (t : FieldSlot) (k : RsSlot) (lead : List Nat) (n : Nat) : (rootPositions t k lead n).Nodup :=
  (rootPositions_descending t k lead n).imp fun h => h.ne'

theorem rsEpos_nodup {t : FieldSlot} {k : RsSlot} {loc pos : List Nat} {n : Nat} (h : rsEpos t k loc n = some pos) :
    pos.Nodup := by
  rw [rsEpos_eq] at h
  split at h
  · cases h
    exact rootPositions_nodup ..
  · cases h

namespace CodeOver

variable {t : FieldSlot} {k : RsSlot} (h : CodeOver t k) {recv syn pos : List Nat} (hn : recv.length ≤ t.order)
  (hsyn : Elements t syn) (hpos : ∀ p ∈ pos, p < recv.length)

include h hn hsyn hpos

/-- Different positions can always be corrected (R247). -/
theorem rsCorr_of_nodup (hnodup : pos.Nodup) : ∃ out, rsCorr t k recv syn pos = some out := by
  obtain ⟨F, _, ⟨M⟩⟩ := h.built.exists_model
  have := M.charP
  have hlo := M.opsBelow.locatorOf_positions h.a_lt pos recv.length
  have hom := fun x hx => M.opsBelow.polyMul hsyn hlo x (List.mem_of_mem_take (i := k.nsym) hx)
  have hmag : ∀ p ∈ pos, ∃ y, magnitude t k.fcr (locatorOf t (pos.map fun p => locatorValue t k p recv.length))
      (evaluator t k.nsym syn (locatorOf t (pos.map fun p => locatorValue t k p recv.length)))
      (locatorValue t k p recv.length) = some y := by
    intro p hp
    have hval := h.toF_locatorValue M (hpos p hp)
    have hne := M.locAt_ne_zero recv.length p
    obtain ⟨y, hy, -⟩ := (M.magnitude_eq hlo hom (h.locatorValue_lt p _) (hval ▸ hne) k.fcr).2 (by
      rw [hval, h.low_locatorOf M hpos, locator_of_nodup hnodup,
        derivative_locator_eval (List.mem_toFinset.2 hp) hne]
      exact mul_ne_zero hne (locator_erase_eval_ne_zero (List.mem_toFinset.2 hp)
        (M.locAt_injOn hn fun q hq => hpos q (List.mem_toFinset.1 hq)) hne))
    exact ⟨y, hy⟩
  choose! y hy using hmag
  exact ⟨_, applyErrata_eq_some hy⟩

omit hn in
/-- A position that occurs twice makes the derivative 0 there (R247). -/
theorem rsCorr_of_not_nodup (hdouble : ¬ pos.Nodup) : rsCorr t k recv syn pos = none := by
  obtain ⟨F, _, ⟨M⟩⟩ := h.built.exists_model
  have := M.charP
  have hlo := M.opsBelow.locatorOf_positions h.a_lt pos recv.length
  have hom := fun x hx => M.opsBelow.polyMul hsyn hlo x (List.mem_of_mem_take (i := k.nsym) hx)
  obtain ⟨p, hp, R, hR⟩ := exists_double_of_not_nodup hdouble fun p => factor (M.locAt recv.length p)
  have hval := h.toF_locatorValue M (hpos p hp)
  have hne := M.locAt_ne_zero recv.length p
  refine applyErrata_eq_none hp ((M.magnitude_eq hlo hom (h.locatorValue_lt p _) (hval ▸ hne) k.fcr).1 ?_)
  rw [hval, h.low_locatorOf M hpos, hR, derivative_eval_of_double hne]

end CodeOver

section Correction

variable {s : State} {r : Nat} (hr : r < NRS) (hv : s.rs[r].valid = true) (ha : 1 ≤ s.lenOf .a)
  (ha' : s.lenOf .a ≤ s.fields[s.rs[r].field].order) (hb : s.lenOf .b = s.rs[r].nsym) (hc : s.lenOf .c ≤ s.rs[r].nsym)
  (hcells : ∀ x ∈ s.vec .a, x < 2 ^ s.fields[s.rs[r].field].m)
  (hsyn : ∀ x ∈ s.vec .b, x < 2 ^ s.fields[s.rs[r].field].m) (hpos : ∀ x ∈ s.vec .c, x < s.lenOf .a)

include hv ha ha' hb hc hcells hsyn hpos

theorem execRsCorr_some {out : List Nat}
    (h : rsCorr s.fields[s.rs[r].field] s.rs[r] (s.vec .a) (s.vec .b) (s.vec .c) = some out) :
    execRsCorr r s = complete (writeOut .r out s) :=
  withCode_passed hr hv (check_passed (lengthOutside_eq_false_iff.2 ⟨ha, ha'⟩) (check_passed (not_not_intro hb)
    (check_passed (Nat.not_lt_of_le hc) (check_passed (not_someCellFrom hcells) (check_passed (not_someCellFrom hsyn)
      (check_passed (not_someCellFrom hpos) (by rw [h])))))))

theorem execRsCorr_none (h : rsCorr s.fields[s.rs[r].field] s.rs[r] (s.vec .a) (s.vec .b) (s.vec .c) = none) :
    execRsCorr r s = raise .divisionByZero s :=
  withCode_passed hr hv (check_passed (lengthOutside_eq_false_iff.2 ⟨ha, ha'⟩) (check_passed (not_not_intro hb)
    (check_passed (Nat.not_lt_of_le hc) (check_passed (not_someCellFrom hcells) (check_passed (not_someCellFrom hsyn)
      (check_passed (not_someCellFrom hpos) (by rw [h])))))))

end Correction

/-- Settles O46. -/
theorem correctionCompletes : Obligations.CorrectionCompletes := by
  intro s r hr hs hv k t ha ha' hb hc hcells hsyn hpos
  have hcode : CodeOver t k := hs.codeOver hv
  have hlen : (s.vec .a).length = s.lenOf .a := vec_length s .a
  have hn : (s.vec .a).length ≤ t.order := hlen.trans_le ha'
  have hpos' : ∀ p ∈ s.vec .c, p < (s.vec .a).length := fun p hp => (hpos p hp).trans_eq hlen.symm
  have hfails : rsCorr t k (s.vec .a) (s.vec .b) (s.vec .c) = none →
      exec (.rsCorr r) s = .next (endWith .divisionByZero s) := execRsCorr_none hr hv ha ha' hb hc hcells hsyn hpos
  refine ⟨hcode.rsCorr_of_nodup hn hsyn hpos', fun out hout => ?_, hfails,
    fun hdouble => hfails (hcode.rsCorr_of_not_nodup hsyn hpos' hdouble)⟩
  have hlength : out.length = s.lenOf .a := (rsCorr_length hout).trans hlen
  obtain ⟨hends, hres, hw, hl⟩ := ended_writeR (s := s) (hlength.trans_le (hcode.word_le ha'))
    (lt_cell_of_lt_symbol ((opsBelow_symbol t).rsCorr (RsSlot.a_lt_symbol k) (hcode.lt_symbol hcells)
      (hcode.lt_symbol hsyn) hout))
  exact ⟨_, execRsCorr_some hr hv ha ha' hb hc hcells hsyn hpos hout, hends, hres, hw, hl.trans hlength⟩

end Sys2Proof.Machine
end

section
/-! PROOFS. The Berlekamp-Massey loop for errors and erasures (43_reed_solomon.md R159): its invariant, over polynomials
and then over the sequences the loop carries, and what `rs_eloc` and `rs_epos` return. -/

namespace Sys2Proof.Machine

open Sys2Proof.Config
open Polynomial

/-! ### Coefficients of products -/

section Coefficients

variable {F : Type} [Field F] {P Q R : F[X]} {a b N j : ℕ}

theorem coeff_mul_eq_zero_of_le (hP : P.natDegree ≤ a) (hQ : ∀ i, b ≤ i → i ≤ j → Q.coeff i = 0) (h : a + b ≤ j) :
    (P * Q).coeff j = 0 := by
  rw [coeff_mul]
  refine Finset.sum_eq_zero fun ij hij => ?_
  have hsum := Finset.HasAntidiagonal.mem_antidiagonal.1 hij
  by_cases hi : ij.1 ≤ a
  · rw [hQ ij.2 (by omega) (by omega), mul_zero]
  · rw [coeff_eq_zero_of_natDegree_lt (by omega), zero_mul]

/-- Below a place only the places below it count. -/
theorem coeff_mul_congr (h : ∀ i, i ≤ j → Q.coeff i = R.coeff i) : (P * Q).coeff j = (P * R).coeff j := by
  rw [coeff_mul, coeff_mul]
  refine Finset.sum_congr rfl fun ij hij => ?_
  rw [h ij.2 (by have := Finset.HasAntidiagonal.mem_antidiagonal.1 hij; omega)]

end Coefficients

/-! ### The invariant (R159) -/

section Invariant

variable {F : Type} [Field F]

/-- Before step `k`: the locator `σ` and the auxiliary polynomial `A` are multiples of the erasure locator `Γ` within their
degrees; the places `L .. k - 1` of `σ S` are 0; and once the length has grown, place `k` of `X A S` is 1 after zeros. -/
structure BmInv (ρ : ℕ) (Γ S σ A : F[X]) (L k : ℕ) : Prop where
  rho_le : ρ ≤ L
  len_le : L ≤ k
  sigma : ∃ P, σ = Γ * P ∧ P.natDegree ≤ L - ρ
  const : σ.coeff 0 = 1
  zero : ∀ j, L ≤ j → j < k → (σ * S).coeff j = 0
  aux : ∃ Q, A = Γ * Q ∧ Q.natDegree ≤ k - L
  last : L = ρ ∨ ((X * A * S).coeff k = 1 ∧ ∀ j, k + 1 + ρ ≤ L + j → j < k → (X * A * S).coeff j = 0)

namespace BmInv

variable {ρ L k : ℕ} {Γ S σ A : F[X]}

theorem init (hΓ : Γ.coeff 0 = 1) : BmInv ρ Γ S Γ Γ ρ ρ where
  rho_le := le_rfl
  len_le := le_rfl
  sigma := ⟨1, (mul_one Γ).symm, natDegree_one.trans_le (Nat.zero_le _)⟩
  const := hΓ
  zero _ h h' := absurd h' (Nat.not_lt_of_le h)
  aux := ⟨1, (mul_one Γ).symm, natDegree_one.trans_le (Nat.zero_le _)⟩
  last := .inl rfl

variable (h : BmInv ρ Γ S σ A L k)

include h

theorem natDegree_le (hΓ : Γ.natDegree ≤ ρ) : σ.natDegree ≤ L := by
  obtain ⟨P, rfl, hP⟩ := h.sigma
  have hL := h.rho_le
  exact natDegree_mul_le.trans (by omega)

/-- The auxiliary polynomial of the next step where the length stays. -/
theorem aux_shift : ∃ Q, X * A = Γ * Q ∧ Q.natDegree ≤ k + 1 - L := by
  obtain ⟨Q, rfl, hQ⟩ := h.aux
  have hL := h.len_le
  exact ⟨X * Q, by ring, natDegree_mul_le.trans (by rw [natDegree_X]; omega)⟩

theorem last_shift (hlast : (X * A * S).coeff k = 1 ∧ ∀ j, k + 1 + ρ ≤ L + j → j < k → (X * A * S).coeff j = 0) :
    (X * (X * A) * S).coeff (k + 1) = 1 ∧
      ∀ j, k + 1 + 1 + ρ ≤ L + j → j < k + 1 → (X * (X * A) * S).coeff j = 0 := by
  obtain ⟨hone, hzero⟩ := hlast
  have hL := h.len_le
  refine ⟨by rw [mul_assoc X, coeff_X_mul, hone], fun j hj hjk => ?_⟩
  obtain ⟨i, rfl⟩ : ∃ i, j = i + 1 := ⟨j - 1, by omega⟩
  rw [mul_assoc X, coeff_X_mul]
  exact hzero i (by omega) (by omega)

/-- A step without discrepancy. -/
theorem keep (hδ : (σ * S).coeff k = 0) : BmInv ρ Γ S σ (X * A) L (k + 1) where
  rho_le := h.rho_le
  len_le := h.len_le.trans (Nat.le_succ k)
  sigma := h.sigma
  const := h.const
  zero j hj hjk := by
    obtain rfl | hlt := Nat.eq_or_lt_of_le (Nat.le_of_lt_succ hjk)
    · exact hδ
    · exact h.zero j hj hlt
  aux := h.aux_shift
  last := h.last.imp_right h.last_shift

/-- The corrected locator, of a length that covers the correction. -/
theorem sigma_corrected {L' : ℕ} (hL : L ≤ L') (hL' : k + 1 + ρ ≤ L + L') (δ : F) :
    ∃ P, σ + C δ * (X * A) = Γ * P ∧ P.natDegree ≤ L' - ρ := by
  obtain ⟨P, rfl, hP⟩ := h.sigma
  obtain ⟨Q, hQ, hdeg⟩ := h.aux_shift
  have hρ := h.rho_le
  refine ⟨P + C δ * Q, by rw [hQ]; ring, (natDegree_add_le _ _).trans (max_le (by omega) ?_)⟩
  exact (natDegree_C_mul_le _ _).trans (by omega)

theorem const_corrected (δ : F) : (σ + C δ * (X * A)).coeff 0 = 1 := by
  rw [coeff_add, coeff_C_mul, mul_coeff_zero, coeff_X_zero, zero_mul, mul_zero, add_zero, h.const]

theorem zero_corrected [CharP F 2]
    (hlast : (X * A * S).coeff k = 1 ∧ ∀ j, k + 1 + ρ ≤ L + j → j < k → (X * A * S).coeff j = 0) {j : ℕ} (hj : L ≤ j)
    (hj' : k + 1 + ρ ≤ L + j) (hjk : j < k + 1) : ((σ + C ((σ * S).coeff k) * (X * A)) * S).coeff j = 0 := by
  obtain ⟨hone, hzero⟩ := hlast
  rw [add_mul, coeff_add, mul_assoc (C _), coeff_C_mul]
  obtain rfl | hlt := Nat.eq_or_lt_of_le (Nat.le_of_lt_succ hjk)
  · rw [hone, mul_one, CharTwo.add_self_eq_zero]
  · rw [h.zero j hj hlt, hzero j hj' hlt, mul_zero, add_zero]

/-- A step that makes the locator longer. -/
theorem grow [CharP F 2] (hδ : (σ * S).coeff k ≠ 0) (hlen : 2 * L ≤ k + ρ) :
    BmInv ρ Γ S (σ + C ((σ * S).coeff k) * (X * A)) (C ((σ * S).coeff k)⁻¹ * σ) (k + 1 + ρ - L) (k + 1) := by
  have hρ := h.rho_le
  have hL := h.len_le
  refine ⟨by omega, by omega, h.sigma_corrected (by omega) (by omega) _, h.const_corrected _, fun j hj hjk => ?_, ?_,
    .inr ⟨?_, fun j hj hjk => ?_⟩⟩
  · obtain rfl | hlast := h.last
    · omega
    · exact h.zero_corrected hlast (by omega) (by omega) hjk
  · obtain ⟨P, hP, hdeg⟩ := h.sigma
    exact ⟨C ((σ * S).coeff k)⁻¹ * P, by rw [mul_left_comm, ← hP],
      (natDegree_C_mul_le _ _).trans (by omega)⟩
  · rw [mul_assoc X, coeff_X_mul, mul_assoc, coeff_C_mul, inv_mul_cancel₀ hδ]
  · obtain ⟨i, rfl⟩ : ∃ i, j = i + 1 := ⟨j - 1, by omega⟩
    rw [mul_assoc X, coeff_X_mul, mul_assoc, coeff_C_mul, h.zero i (by omega) (by omega), mul_zero]

/-- A step that corrects the locator at its length. -/
theorem adjust [CharP F 2] (hlen : k + ρ < 2 * L) :
    BmInv ρ Γ S (σ + C ((σ * S).coeff k) * (X * A)) (X * A) L (k + 1) := by
  have hL := h.len_le
  have hlast := h.last.resolve_left fun heq => by omega
  exact ⟨h.rho_le, by omega, h.sigma_corrected le_rfl (by omega) _, h.const_corrected _,
    fun j hj hjk => h.zero_corrected hlast hj (by omega) hjk, h.aux_shift, .inr (h.last_shift hlast)⟩

/-- A locator of `e` further positions bounds the length: as long as it explains the syndromes, a discrepancy comes
early. -/
theorem lt_of_discrepancy {Λ : F[X]} {e N : ℕ} (hΛ : Λ.natDegree ≤ e) (hΛ0 : Λ.coeff 0 = 1)
    (hkey : ∀ j, ρ + e ≤ j → j < N → (Λ * Γ * S).coeff j = 0) (hk : k < N) (hδ : (σ * S).coeff k ≠ 0) : k < L + e := by
  by_contra hge
  obtain ⟨P, hP, hdeg⟩ := h.sigma
  have hρ := h.rho_le
  have hfirst : (Λ * (σ * S)).coeff k = (σ * S).coeff k := by
    rw [coeff_mul, Finset.sum_eq_single (0, k)]
    · rw [hΛ0, one_mul]
    · intro ij hij hne
      have hsum := Finset.HasAntidiagonal.mem_antidiagonal.1 hij
      have hpos : ij.1 ≠ 0 := fun h0 => hne (Prod.ext h0 (by omega))
      by_cases hi : ij.1 ≤ e
      · rw [h.zero ij.2 (by omega) (by omega), mul_zero]
      · rw [coeff_eq_zero_of_natDegree_lt (by omega), zero_mul]
    · intro hnot
      exact absurd (Finset.HasAntidiagonal.mem_antidiagonal.2 (Nat.zero_add k)) hnot
  have hsecond : (Λ * (σ * S)).coeff k = 0 := by
    have hswap : Λ * (σ * S) = P * (Λ * Γ * S) := by rw [hP]; ring
    rw [hswap]
    exact coeff_mul_eq_zero_of_le hdeg (fun i hi hik => hkey i hi (by omega)) (by omega)
  exact hδ (hfirst.symm.trans hsecond)

end BmInv

end Invariant

/-! ### The loop (R159) -/

section Steps

variable {t : FieldSlot} {syn : List Nat} {rho : Nat} {x : BmState} {k : Nat}

theorem bmStep_keep (h : discrepancy t syn x k = 0) : bmStep t syn rho x k = { x with aux := 0 :: x.aux } := if_pos h

theorem bmStep_grow (h : discrepancy t syn x k ≠ 0) (hlen : 2 * x.len ≤ k + rho) :
    bmStep t syn rho x k =
      { lo := xorPad x.lo (polyScale t (0 :: x.aux) (discrepancy t syn x k))
        aux := polyScale t x.lo ((gfInv t (discrepancy t syn x k)).getD 0)
        len := k + 1 + rho - x.len } :=
  (if_neg h).trans (if_pos hlen)

theorem bmStep_adjust (h : discrepancy t syn x k ≠ 0) (hlen : k + rho < 2 * x.len) :
    bmStep t syn rho x k =
      { lo := xorPad x.lo (polyScale t (0 :: x.aux) (discrepancy t syn x k))
        aux := 0 :: x.aux
        len := x.len } :=
  (if_neg h).trans (if_neg (Nat.not_le_of_lt hlen))

end Steps

namespace FieldModel

variable {t : FieldSlot} {F : Type} [Field F] (M : FieldModel t F) {syn : List Nat} {x : BmState} {k rho : Nat}

theorem discrepancy_eq_gfSum (t : FieldSlot) (syn : List Nat) (x : BmState) (k : Nat) :
    discrepancy t syn x k = gfSum x.lo.length fun j =>
      if j ≤ x.len ∧ j ≤ k then gfMul t (x.lo.getD j 0) (syn.getD (k - j) 0) else 0 := by
  rw [discrepancy, gfSum]
  congr 1
  funext acc j
  split
  · rfl
  · rw [Nat.xor_zero]

/-- The discrepancy is place `k` of the product of locator and syndromes (R159). -/
theorem toF_discrepancy (hsyn : Elements t syn) (hlo : Elements t x.lo) (hdeg : (M.low x.lo).natDegree ≤ x.len) (k : Nat) :
    M.toF (discrepancy t syn x k) = (M.low x.lo * M.low syn).coeff k := by
  have hterm : ∀ j < x.lo.length,
      (if j ≤ x.len ∧ j ≤ k then gfMul t (x.lo.getD j 0) (syn.getD (k - j) 0) else 0) < 2 ^ t.m := fun j _ => by
    split
    · exact M.mul_lt (getD_lt hlo j) (getD_lt hsyn _)
    · exact Nat.two_pow_pos _
  have hvalue : ∀ j, M.toF (if j ≤ x.len ∧ j ≤ k then gfMul t (x.lo.getD j 0) (syn.getD (k - j) 0) else 0) =
      if j ≤ k then (M.low x.lo).coeff j * (M.low syn).coeff (k - j) else 0 := by
    intro j
    by_cases hjk : j ≤ k
    · by_cases hj : j ≤ x.len
      · rw [if_pos ⟨hj, hjk⟩, if_pos hjk, M.mul (getD_lt hlo j) (getD_lt hsyn _), M.coeff_low, M.coeff_low]
      · rw [if_neg fun h => hj h.1, if_pos hjk, M.zero, coeff_eq_zero_of_natDegree_lt (by omega), zero_mul]
    · rw [if_neg fun h => hjk h.2, if_neg hjk, M.zero]
  rw [discrepancy_eq_gfSum, M.toF_gfSum hterm, coeff_mul, Finset.Nat.sum_antidiagonal_eq_sum_range_succ_mk,
    Finset.sum_congr rfl fun j _ => hvalue j]
  have hlow : ∀ j, x.lo.length ≤ j → (M.low x.lo).coeff j = 0 := fun j hj => by
    rw [M.coeff_low, List.getD_eq_default _ _ hj, M.zero]
  calc ∑ j ∈ Finset.range x.lo.length, (if j ≤ k then (M.low x.lo).coeff j * (M.low syn).coeff (k - j) else 0)
      = ∑ j ∈ Finset.range (x.lo.length + (k + 1)),
          (if j ≤ k then (M.low x.lo).coeff j * (M.low syn).coeff (k - j) else 0) := by
        refine Finset.sum_subset (Finset.range_subset_range.2 (Nat.le_add_right ..)) fun j _ hj => ?_
        rw [hlow j (by simpa using hj), zero_mul, ite_self]
    _ = ∑ j ∈ Finset.range (k + 1), (if j ≤ k then (M.low x.lo).coeff j * (M.low syn).coeff (k - j) else 0) := by
        refine (Finset.sum_subset (Finset.range_subset_range.2 (Nat.le_add_left ..)) fun j _ hj => ?_).symm
        rw [if_neg (by simpa using hj)]
    _ = ∑ j ∈ Finset.range (k + 1), (M.low x.lo).coeff j * (M.low syn).coeff (k - j) :=
        Finset.sum_congr rfl fun j hj => if_pos (Nat.le_of_lt_succ (Finset.mem_range.1 hj))

/-- The invariant of the loop over the sequences it carries. -/
structure LoopInv (syn : List Nat) (rho : Nat) (Γ : F[X]) (x : BmState) (k : Nat) : Prop where
  lo : Elements t x.lo
  aux : Elements t x.aux
  inv : BmInv rho Γ (M.low syn) (M.low x.lo) (M.low x.aux) x.len k

namespace LoopInv

variable {M} {Γ : F[X]} (h : M.LoopInv syn rho Γ x k) (hsyn : Elements t syn) (hΓ : Γ.natDegree ≤ rho)

include h hsyn hΓ

theorem toF_discrepancy : M.toF (discrepancy t syn x k) = (M.low x.lo * M.low syn).coeff k :=
  M.toF_discrepancy hsyn h.lo (h.inv.natDegree_le hΓ) k

omit hΓ in
theorem discrepancy_lt : discrepancy t syn x k < 2 ^ t.m := M.opsBelow.discrepancy hsyn h.lo k

theorem coeff_ne_zero (hδ : discrepancy t syn x k ≠ 0) : (M.low x.lo * M.low syn).coeff k ≠ 0 := by
  rw [← h.toF_discrepancy hsyn hΓ, ne_eq, M.toF_eq_zero_iff (h.discrepancy_lt hsyn)]
  exact hδ

theorem low_next : M.low (xorPad x.lo (polyScale t (0 :: x.aux) (discrepancy t syn x k))) =
    M.low x.lo + C ((M.low x.lo * M.low syn).coeff k) * (X * M.low x.aux) := by
  have hδ := h.discrepancy_lt hsyn
  have hshift := cons_lt (Nat.two_pow_pos t.m) h.aux
  rw [M.low_xorPad h.lo (M.opsBelow.polyScale hshift hδ), M.low_polyScale hshift hδ, M.low_cons_zero,
    h.toF_discrepancy hsyn hΓ]

/-- One pass. -/
theorem step : M.LoopInv syn rho Γ (bmStep t syn rho x k) (k + 1) := by
  have := M.charP
  obtain ⟨hlo, haux⟩ := M.opsBelow.bmStep hsyn rho h.lo h.aux k
  refine ⟨hlo, haux, ?_⟩
  by_cases hδ : discrepancy t syn x k = 0
  · have hzero : (M.low x.lo * M.low syn).coeff k = 0 := by rw [← h.toF_discrepancy hsyn hΓ, hδ, M.zero]
    rw [bmStep_keep hδ, M.low_cons_zero]
    exact h.inv.keep hzero
  · have hne := h.coeff_ne_zero hsyn hΓ hδ
    have hnext := h.low_next hsyn hΓ
    obtain hlen | hlen := Nat.lt_or_ge (k + rho) (2 * x.len)
    · rw [bmStep_adjust hδ hlen, hnext, M.low_cons_zero]
      exact h.inv.adjust hlen
    · obtain ⟨u, hu, hult, hueq⟩ := M.gfInv_eq_some (h.discrepancy_lt hsyn) hδ
      rw [bmStep_grow hδ hlen, hnext, hu, Option.getD_some, M.low_polyScale h.lo hult, hueq, h.toF_discrepancy hsyn hΓ]
      exact h.inv.grow hne hlen

/-- Within capacity the length stays within that of the locator sought. -/
theorem step_len_le {Λ : F[X]} {e N : ℕ} (hΛ : Λ.natDegree ≤ e) (hΛ0 : Λ.coeff 0 = 1)
    (hkey : ∀ j, rho + e ≤ j → j < N → (Λ * Γ * M.low syn).coeff j = 0) (hk : k < N) (hlen : x.len ≤ rho + e) :
    (bmStep t syn rho x k).len ≤ rho + e := by
  by_cases hδ : discrepancy t syn x k = 0
  · rw [bmStep_keep hδ]
    exact hlen
  · obtain hlt | hge := Nat.lt_or_ge (k + rho) (2 * x.len)
    · rw [bmStep_adjust hδ hlt]
      exact hlen
    · have hearly := h.inv.lt_of_discrepancy hΛ hΛ0 hkey hk (h.coeff_ne_zero hsyn hΓ hδ)
      rw [bmStep_grow hδ hge]
      dsimp only
      omega

end LoopInv

theorem LoopInv.foldl {M : FieldModel t F} {Γ : F[X]} (h : M.LoopInv syn rho Γ x k) (hsyn : Elements t syn)
    (hΓ : Γ.natDegree ≤ rho) (m : Nat) :
    M.LoopInv syn rho Γ ((List.range' k m).foldl (bmStep t syn rho) x) (k + m) := by
  induction m with
  | zero => exact h
  | succ m ih =>
    rw [List.range'_1_concat, List.foldl_append]
    exact ih.step hsyn hΓ

theorem LoopInv.foldl_len_le {M : FieldModel t F} {Γ : F[X]} (h : M.LoopInv syn rho Γ x k) (hsyn : Elements t syn)
    (hΓ : Γ.natDegree ≤ rho) {Λ : F[X]} {e N : ℕ} (hΛ : Λ.natDegree ≤ e) (hΛ0 : Λ.coeff 0 = 1)
    (hkey : ∀ j, rho + e ≤ j → j < N → (Λ * Γ * M.low syn).coeff j = 0) (hlen : x.len ≤ rho + e) {m : Nat}
    (hm : k + m ≤ N) : ((List.range' k m).foldl (bmStep t syn rho) x).len ≤ rho + e := by
  induction m with
  | zero => exact hlen
  | succ m ih =>
    rw [List.range'_1_concat, List.foldl_append]
    exact (h.foldl hsyn hΓ m).step_len_le hsyn hΓ hΛ hΛ0 hkey (by omega) (ih (by omega))

end FieldModel

/-! ### `rs_eloc` (R159) -/

/-- The state the loop of `rs_eloc` starts from. -/
def elocStart (t : FieldSlot) (k : RsSlot) (eras : List Nat) (n : Nat) : BmState where
  lo := locatorOf t (eras.map fun e => locatorValue t k e n)
  aux := locatorOf t (eras.map fun e => locatorValue t k e n)
  len := eras.length

/-- The state the loop of `rs_eloc` ends in. -/
def elocState (t : FieldSlot) (k : RsSlot) (syn eras : List Nat) (n : Nat) : BmState :=
  (List.range' eras.length (k.nsym - eras.length)).foldl (bmStep t syn eras.length) (elocStart t k eras n)

theorem rsEloc_eq (t : FieldSlot) (k : RsSlot) (syn eras : List Nat) (n : Nat) :
    rsEloc t k syn eras n = stripLeading (elocState t k syn eras n).lo.reverse := rfl

theorem stripLeading_getLast? {p : List Nat} : (stripLeading p).getLast? = p.getLast? := by
  induction p using stripLeading.induct with
  | case1 => rfl
  | case2 x => rfl
  | case3 y rest ih => rw [stripLeading, if_pos rfl, ih, List.getLast?_cons_cons]
  | case4 x y rest hx => rw [stripLeading, if_neg hx]

/-- A leading zero is left only where there is nothing else. -/
theorem stripLeading_head? (p : List Nat) : (stripLeading p).head? ≠ some 0 ∨ stripLeading p = [0] := by
  induction p using stripLeading.induct with
  | case1 => exact .inl nofun
  | case2 x =>
    by_cases hx : x = 0
    · exact .inr (by rw [hx]; rfl)
    · exact .inl fun h => hx (Option.some.inj h)
  | case3 y rest ih => rwa [stripLeading, if_pos rfl]
  | case4 x y rest hx =>
    rw [stripLeading, if_neg hx]
    exact .inl fun h => hx (Option.some.inj h)

theorem stripLeading_of_head? {p : List Nat} (h : p.head? ≠ some 0) : stripLeading p = p := by
  match p with
  | [] => rfl
  | [x] => rfl
  | x :: y :: rest => exact if_neg fun hx => h (congrArg some hx)

theorem FieldModel.high_stripLeading {t : FieldSlot} {F : Type} [Field F] (M : FieldModel t F) (p : List Nat) :
    M.high (stripLeading p) = M.high p := by
  induction p using stripLeading.induct with
  | case1 => rfl
  | case2 x => rfl
  | case3 y rest ih => rw [stripLeading, if_pos rfl, ih, M.high_cons_zero]
  | case4 x y rest hx => rw [stripLeading, if_neg hx]

/-- Without leading zeros the length says the degree. -/
theorem FieldModel.length_of_head? {t : FieldSlot} {F : Type} [Field F] (M : FieldModel t F) {p : List Nat}
    (hp : Elements t p) (hne : p ≠ []) (h : p.head? ≠ some 0) : p.length = (M.high p).natDegree + 1 := by
  have hlt := M.natDegree_low_lt (p := p.reverse) (by rwa [ne_eq, List.reverse_eq_nil_iff])
  rw [List.length_reverse] at hlt
  have hle : p.length - 1 ≤ (M.high p).natDegree := by
    refine le_natDegree_of_ne_zero ?_
    obtain ⟨a, q, rfl⟩ := List.exists_cons_of_ne_nil hne
    have ha : a ≠ 0 := fun h0 => h (congrArg some h0)
    rw [FieldModel.high, M.coeff_low, List.reverse_cons, List.length_cons, Nat.add_sub_cancel,
      List.getD_append_right _ _ _ _ (by rw [List.length_reverse]), List.length_reverse, Nat.sub_self,
      List.getD_cons_zero, ne_eq, M.toF_eq_zero_iff (hp a (List.mem_cons_self ..))]
    exact ha
  have hhigh : (M.high p).natDegree = (M.low p.reverse).natDegree := rfl
  omega

namespace CodeOver

variable {t : FieldSlot} {k : RsSlot} (h : CodeOver t k) {syn eras : List Nat} {n : Nat}

include h

/-- The erasure locator. -/
theorem loopInv_start {F : Type} [Field F] (M : FieldModel t F) (heras : ∀ e ∈ eras, e < n) :
    M.LoopInv syn eras.length (eras.map fun e => factor (M.locAt n e)).prod (elocStart t k eras n) eras.length := by
  have hlo : Elements t (elocStart t k eras n).lo := M.opsBelow.locatorOf_positions h.a_lt eras n
  have hlow : M.low (elocStart t k eras n).lo = (eras.map fun e => factor (M.locAt n e)).prod := h.low_locatorOf M heras
  have haux : M.low (elocStart t k eras n).aux = (eras.map fun e => factor (M.locAt n e)).prod := hlow
  refine ⟨hlo, hlo, ?_⟩
  rw [hlow, haux]
  refine BmInv.init ?_
  have h1 := list_prod_factor_coeff_zero (eras.map (M.locAt n))
  rwa [List.map_map] at h1

omit h in
theorem erasureLocator_natDegree_le {F : Type} [Field F] (M : FieldModel t F) (eras : List Nat) (n : Nat) :
    (eras.map fun e => factor (M.locAt n e)).prod.natDegree ≤ eras.length := by
  have h1 := list_prod_factor_natDegree_le (eras.map (M.locAt n))
  rwa [List.map_map, List.length_map] at h1

/-- The loop has run to its end. -/
theorem loopInv_final {F : Type} [Field F] (M : FieldModel t F) (hsyn : Elements t syn) (hlen : eras.length ≤ k.nsym)
    (heras : ∀ e ∈ eras, e < n) :
    M.LoopInv syn eras.length (eras.map fun e => factor (M.locAt n e)).prod (elocState t k syn eras n) k.nsym := by
  have hfold := (h.loopInv_start (syn := syn) M heras).foldl hsyn (erasureLocator_natDegree_le M eras n)
    (k.nsym - eras.length)
  rwa [Nat.add_sub_cancel' hlen] at hfold

/-- The locator returned has constant term 1 and no leading zero (R159). -/
theorem rsEloc_ends (hsyn : Elements t syn) (hlen : eras.length ≤ k.nsym) (heras : ∀ e ∈ eras, e < n) :
    (rsEloc t k syn eras n).getLast? = some 1 ∧ (rsEloc t k syn eras n).head? ≠ some 0 := by
  obtain ⟨F, _, ⟨M⟩⟩ := h.built.exists_model
  have hfinal := h.loopInv_final M hsyn hlen heras
  have hone : (elocState t k syn eras n).lo.getD 0 0 = 1 := by
    refine M.inj (getD_lt hfinal.lo 0) M.one_lt ?_
    rw [← M.coeff_low, hfinal.inv.const, M.one]
  have hhead : (elocState t k syn eras n).lo.head? = some 1 := by
    cases hlo : (elocState t k syn eras n).lo with
    | nil =>
      rw [hlo] at hone
      cases hone
    | cons a rest =>
      rw [hlo, List.getD_cons_zero] at hone
      rw [hone]
      rfl
  have hlast : (rsEloc t k syn eras n).getLast? = some 1 := by
    rw [rsEloc_eq, stripLeading_getLast?, List.getLast?_reverse, hhead]
  obtain hhead | hzero := stripLeading_head? (elocState t k syn eras n).lo.reverse
  · exact ⟨hlast, hhead⟩
  · rw [rsEloc_eq, hzero] at hlast
    cases hlast

theorem rsEloc_elements (hsyn : Elements t syn) : Elements t (rsEloc t k syn eras n) := by
  obtain ⟨F, _, ⟨M⟩⟩ := h.built.exists_model
  exact M.opsBelow.rsEloc h.a_lt hsyn eras n

end CodeOver

/-- Without syndromes there is no discrepancy. -/
theorem discrepancy_of_zero {t : FieldSlot} {syn : List Nat} (hsyn : ∀ x ∈ syn, x = 0) (x : BmState) (k : Nat) :
    discrepancy t syn x k = 0 := by
  have hget : ∀ j, syn.getD j 0 = 0 := by
    intro j
    by_cases hj : j < syn.length
    · rw [List.getD_eq_getElem _ _ hj]
      exact hsyn _ (List.getElem_mem hj)
    · exact List.getD_eq_default _ _ (Nat.le_of_not_lt hj)
  rw [FieldModel.discrepancy_eq_gfSum]
  refine Nat.lt_one_iff.1 (gfSum_lt (b := 0) fun j _ => ?_)
  have hterm : gfMul t (x.lo.getD j 0) (syn.getD (k - j) 0) = 0 := if_pos (.inr (hget _))
  rw [hterm, ite_self]
  exact Nat.one_pos

theorem foldl_bmStep_of_zero {t : FieldSlot} {syn : List Nat} (hsyn : ∀ x ∈ syn, x = 0) (rho : Nat) (ks : List Nat)
    (x : BmState) : (ks.foldl (bmStep t syn rho) x).lo = x.lo := by
  induction ks generalizing x with
  | nil => rfl
  | cons k rest ih => exact (ih _).trans (by rw [bmStep_keep (discrepancy_of_zero hsyn x k)])

/-- Settles O42. -/
theorem locatorAndPositions : Obligations.LocatorAndPositions := by
  refine ⟨fun s r hr syn eras n hs hv => ?locator,
    fun t k loc n hne => ⟨fun pos hpos => ?found, fun hnone pos hnodup hmem => ?lost⟩⟩
  case locator =>
    intro k t _ hsyn hlen _ _ heras loc
    have hcode : CodeOver t k := hs.codeOver hv
    obtain ⟨hlast, hhead⟩ := hcode.rsEloc_ends hsyn hlen heras
    refine ⟨hlast, hhead, rsEloc_length_le t k syn n hlen, hcode.rsEloc_elements hsyn, fun hnil hzero => ?_⟩
    subst hnil
    exact congrArg (fun lo => stripLeading (List.reverse lo)) (foldl_bmStep_of_zero hzero _ _ _)
  case found =>
    rw [rsEpos_eq] at hpos
    split at hpos
    next hlen =>
      cases hpos
      exact ⟨hlen, rootPositions_descending .., fun p => mem_rootPositions⟩
    next => cases hpos
  case lost =>
    intro hlen
    rw [rsEpos_eq] at hnone
    split at hnone
    next => cases hnone
    next hne =>
      have hperm : pos.Perm (rootPositions t k (stripLeading loc) n) :=
        (List.perm_ext_iff_of_nodup hnodup (rootPositions_nodup ..)).2 fun p => (hmem p).trans mem_rootPositions.symm
      exact hne (hperm.length_eq.symm.trans hlen)

end Sys2Proof.Machine
end

section
/-! PROOFS. The decoder within its capacity (43_reed_solomon.md R165, R167): the key equation, the one locator that solves
it, the magnitudes it gives, and `RS.DEC` as a whole. -/

namespace Sys2Proof.Machine

open Sys2Proof.Config
open Polynomial

/-! ### The key equation (R159, R163) -/

section KeyEquation

variable {F : Type} [Field F] {x w : ℕ → F} {T : Finset ℕ} {S : F[X]} {N : ℕ}

/-- The places of a polynomial below `n`. -/
noncomputable def lowPart (n : ℕ) (P : F[X]) : F[X] := PowerSeries.trunc n (P : PowerSeries F)

theorem coeff_lowPart (n : ℕ) (P : F[X]) (i : ℕ) : (lowPart n P).coeff i = if i < n then P.coeff i else 0 := by
  rw [lowPart, PowerSeries.coeff_trunc, Polynomial.coeff_coe]

/-- The error evaluator of errors `w` at the positions `T`. -/
noncomputable def evaluatorOf (x w : ℕ → F) (T : Finset ℕ) : F[X] := ∑ p ∈ T, C (w p) * locator x (T.erase p)

theorem locator_union {D E : Finset ℕ} (h : Disjoint D E) : locator x (D ∪ E) = locator x D * locator x E :=
  Finset.prod_union h

theorem locator_natDegree_le : (locator x T).natDegree ≤ T.card := by
  refine (natDegree_prod_le _ _).trans ((Finset.sum_le_card_nsmul _ _ 1 fun p _ => factor_natDegree_le (x p)).trans_eq ?_)
  rw [smul_eq_mul, mul_one]

theorem evaluatorOf_coeff_eq_zero {j : ℕ} (hj : T.card ≤ j) : (evaluatorOf x w T).coeff j = 0 := by
  rw [evaluatorOf, finsetSum_coeff]
  refine Finset.sum_eq_zero fun p hp => ?_
  have hdeg := locator_natDegree_le (x := x) (T := T.erase p)
  have hcard := Finset.card_erase_lt_of_mem hp
  rw [coeff_C_mul, coeff_eq_zero_of_natDegree_lt (by omega), mul_zero]

variable [CharP F 2]

/-- At the inverse locator value of one position only that position's term remains. -/
theorem evaluatorOf_eval {p : ℕ} (hp : p ∈ T) (hx : x p ≠ 0) :
    (evaluatorOf x w T).eval (x p)⁻¹ = w p * (locator x (T.erase p)).eval (x p)⁻¹ := by
  rw [evaluatorOf, eval_finsetSum, Finset.sum_eq_single p]
  · rw [eval_mul, eval_C]
  · intro q hq hne
    rw [eval_mul, (locator_eval_inv_eq_zero_iff hx).2 ⟨p, Finset.mem_erase.2 ⟨hne.symm, hp⟩, rfl⟩, mul_zero]
  · exact fun h => absurd hp h

/-- A factor times its truncated geometric series. -/
theorem factor_mul_geom (c : F) (N : ℕ) :
    factor c * ∑ i ∈ Finset.range N, C (c ^ i) * X ^ i = 1 + C (c ^ N) * X ^ N := by
  have h := mul_neg_geom_sum (C c * X) N
  simp only [CharTwo.sub_eq_add, mul_pow, ← C_pow] at h
  exact h

/-- The locator times the syndromes is the evaluator, below the number of syndromes. -/
theorem key_equation (hS : ∀ i < N, S.coeff i = ∑ p ∈ T, w p * x p ^ i) {j : ℕ} (hj : j < N) :
    (locator x T * S).coeff j = (evaluatorOf x w T).coeff j := by
  have hseries : ∀ i ≤ j, S.coeff i = (∑ p ∈ T, C (w p) * ∑ i ∈ Finset.range N, C (x p ^ i) * X ^ i).coeff i := by
    intro i hi
    rw [hS i (by omega), finsetSum_coeff]
    refine Finset.sum_congr rfl fun p _ => ?_
    rw [coeff_C_mul, finsetSum_coeff]
    simp only [coeff_C_mul_X_pow]
    rw [Finset.sum_ite_eq, if_pos (Finset.mem_range.2 (by omega))]
  rw [coeff_mul_congr hseries, Finset.mul_sum, evaluatorOf, finsetSum_coeff, finsetSum_coeff]
  refine Finset.sum_congr rfl fun p hp => ?_
  calc (locator x T * (C (w p) * ∑ i ∈ Finset.range N, C (x p ^ i) * X ^ i)).coeff j
      = (C (w p) * locator x (T.erase p) * (factor (x p) * ∑ i ∈ Finset.range N, C (x p ^ i) * X ^ i)).coeff j := by
        rw [locator_eq_mul_erase hp]
        congr 1
        ring
    _ = (C (w p) * locator x (T.erase p) + C (w p) * locator x (T.erase p) * C (x p ^ N) * X ^ N).coeff j := by
        rw [factor_mul_geom]
        congr 1
        ring
    _ = (C (w p) * locator x (T.erase p)).coeff j := by
        rw [coeff_add, coeff_mul_X_pow', if_neg (Nat.not_le_of_lt hj), add_zero]

/-- A polynomial with constant term 1 that vanishes at as many inverse locator values as its degree is their locator. -/
theorem eq_locator_of_roots {P : F[X]} (hdeg : P.natDegree ≤ T.card) (hP0 : P.coeff 0 = 1) (hx : ∀ p ∈ T, x p ≠ 0)
    (hinj : Set.InjOn x T) (hroot : ∀ p ∈ T, P.eval (x p)⁻¹ = 0) : P = locator x T := by
  classical
  have hnot : (0 : F) ∉ T.image fun p => (x p)⁻¹ := by
    intro h
    obtain ⟨p, hp, h0⟩ := Finset.mem_image.1 h
    exact hx p hp (inv_eq_zero.1 h0)
  have hcard : (insert 0 (T.image fun p => (x p)⁻¹)).card = T.card + 1 := by
    rw [Finset.card_insert_of_notMem hnot, Finset.card_image_of_injOn fun p hp q hq h => hinj hp hq (inv_injective h)]
  refine eq_of_degree_sub_lt_of_eval_finset_eq (insert 0 (T.image fun p => (x p)⁻¹)) ?_ fun z hz => ?_
  · rw [hcard]
    refine degree_le_natDegree.trans_lt (Nat.cast_lt.2 (Nat.lt_succ_of_le ?_))
    exact (natDegree_sub_le _ _).trans (max_le hdeg locator_natDegree_le)
  · obtain rfl | hz := Finset.mem_insert.1 hz
    · rw [← coeff_zero_eq_eval_zero, ← coeff_zero_eq_eval_zero, hP0, locator_coeff_zero]
    · obtain ⟨p, hp, rfl⟩ := Finset.mem_image.1 hz
      rw [hroot p hp, (locator_eval_inv_eq_zero_iff (hx p hp)).2 ⟨p, hp, rfl⟩]

/-- Within capacity the loop's locator is that of the declared positions `D` and the positions in error `E`. -/
theorem BmInv.eq_locator {D E : Finset ℕ} {σ A : F[X]} {L : ℕ} (h : BmInv D.card (locator x D) S σ A L N)
    (hdisj : Disjoint D E) (hL : L ≤ D.card + E.card) (hcap : 2 * E.card + D.card ≤ N)
    (hkey : ∀ j < N, (locator x (D ∪ E) * S).coeff j = (evaluatorOf x w (D ∪ E)).coeff j)
    (hx : ∀ p ∈ D ∪ E, x p ≠ 0) (hinj : Set.InjOn x ↑(D ∪ E)) (hw : ∀ p ∈ E, w p ≠ 0) : σ = locator x (D ∪ E) := by
  obtain ⟨P, hP, hdeg⟩ := h.sigma
  have hE : ∀ p ∈ E, p ∈ D ∪ E := fun p hp => Finset.mem_union_right _ hp
  have hunion := locator_union (x := x) hdisj
  have hcard : (D ∪ E).card = D.card + E.card := Finset.card_union_of_disjoint hdisj
  have hP0 : P.coeff 0 = 1 := by
    have h0 := h.const
    rwa [hP, mul_coeff_zero, locator_coeff_zero, one_mul] at h0
  have hsplit : P * evaluatorOf x w (D ∪ E) = locator x E * lowPart L (σ * S) := by
    ext j
    by_cases hj : j < N
    · have hleft : (P * evaluatorOf x w (D ∪ E)).coeff j = (P * (locator x (D ∪ E) * S)).coeff j :=
        coeff_mul_congr fun i hi => (hkey i (by omega)).symm
      have hright : (locator x E * lowPart L (σ * S)).coeff j = (locator x E * (σ * S)).coeff j := by
        refine coeff_mul_congr fun i hi => ?_
        rw [coeff_lowPart]
        split
        · rfl
        · rw [h.zero i (by omega) (by omega)]
      rw [hleft, hright, hP, hunion]
      congr 1
      ring
    · rw [coeff_mul_eq_zero_of_le hdeg (fun i hi _ => evaluatorOf_coeff_eq_zero hi) (by omega),
        coeff_mul_eq_zero_of_le (b := L) locator_natDegree_le (fun i hi _ => ?_) (by omega)]
      rw [coeff_lowPart, if_neg (Nat.not_lt_of_le hi)]
  have hroot : ∀ p ∈ E, P.eval (x p)⁻¹ = 0 := by
    intro p hp
    have hxp := hx p (hE p hp)
    have hval := congrArg (eval (x p)⁻¹) hsplit
    rw [eval_mul, eval_mul, (locator_eval_inv_eq_zero_iff hxp).2 ⟨p, hp, rfl⟩, zero_mul,
      evaluatorOf_eval (hE p hp) hxp] at hval
    exact (mul_eq_zero.1 hval).resolve_right
      (mul_ne_zero (hw p hp) (locator_erase_eval_ne_zero (hE p hp) hinj hxp))
  rw [hP, hunion, eq_locator_of_roots (hdeg.trans (by omega)) hP0 (fun p hp => hx p (hE p hp))
    (hinj.mono fun p hp => hE p hp) hroot]

end KeyEquation

/-! ### Words changed at some places -/

theorem eq_of_getD {xs ys : List Nat} (hlen : xs.length = ys.length) (h : ∀ p, xs.getD p 0 = ys.getD p 0) : xs = ys := by
  refine List.ext_getElem hlen fun p hp hp' => ?_
  rw [← List.getD_eq_getElem _ 0 hp, ← List.getD_eq_getElem _ 0 hp', h]

theorem getD_modify_same {xs : List Nat} {p : Nat} (hp : p < xs.length) (f : Nat → Nat) :
    (xs.modify p f).getD p 0 = f (xs.getD p 0) := by
  rw [List.getD_eq_getElem _ _ (by rwa [List.length_modify]), List.getElem_modify, if_pos rfl, List.getD_eq_getElem _ _ hp]

theorem getD_modify_other {xs : List Nat} {p q : Nat} (h : p ≠ q) (f : Nat → Nat) :
    (xs.modify p f).getD q 0 = xs.getD q 0 := by
  by_cases hq : q < xs.length
  · rw [List.getD_eq_getElem _ _ (by rwa [List.length_modify]), List.getElem_modify, if_neg h, List.getD_eq_getElem _ _ hq]
  · rw [List.getD_eq_default _ _ (by rw [List.length_modify]; omega), List.getD_eq_default _ _ (by omega)]

section Foldl

variable {y : Nat → Nat} {pos out : List Nat}

theorem foldl_modify_length : (pos.foldl (fun out p => out.modify p (· ^^^ y p)) out).length = out.length := by
  induction pos generalizing out with
  | nil => rfl
  | cons p rest ih => exact ih.trans (List.length_modify ..)

theorem foldl_modify_getD_of_notMem {q : Nat} (hq : q ∉ pos) :
    (pos.foldl (fun out p => out.modify p (· ^^^ y p)) out).getD q 0 = out.getD q 0 := by
  induction pos generalizing out with
  | nil => rfl
  | cons p rest ih =>
    obtain ⟨hne, hq⟩ := not_or.1 (mt List.mem_cons.2 hq)
    exact (ih hq).trans (getD_modify_other (Ne.symm hne) _)

/-- Each position of a list without repetition is changed once. -/
theorem foldl_modify_getD_of_mem {q : Nat} (hnodup : pos.Nodup) (hpos : ∀ p ∈ pos, p < out.length) (hq : q ∈ pos) :
    (pos.foldl (fun out p => out.modify p (· ^^^ y p)) out).getD q 0 = out.getD q 0 ^^^ y q := by
  induction pos generalizing out with
  | nil => cases hq
  | cons p rest ih =>
    obtain ⟨hp, hrest⟩ := List.nodup_cons.1 hnodup
    obtain ⟨hplt, hpos⟩ := List.forall_mem_cons.1 hpos
    rw [List.foldl_cons]
    by_cases heq : p = q
    · subst heq
      exact (foldl_modify_getD_of_notMem hp).trans (getD_modify_same hplt _)
    · have hq := (List.mem_cons.1 hq).resolve_left (Ne.symm heq)
      refine (ih hrest (fun r hr => ?_) hq).trans ?_
      · rw [List.length_modify]
        exact hpos r hr
      · rw [getD_modify_other heq]

end Foldl

/-! ### Words with errors (R150, R156) -/

/-- The quotient of R163 at a root, with the powers of the locator value cancelled. -/
theorem magnitude_cancel {F : Type} [Field F] {a b : F} (ha : a ≠ 0) (hb : b ≠ 0) (f : ℕ) (d : F) :
    a / a ^ f * (d * a ^ f * b) / (a * b) = d := by
  field_simp

namespace CodeOver

variable {t : FieldSlot} {k : RsSlot} (h : CodeOver t k) {F : Type} [Field F] (M : FieldModel t F) {recv word : List Nat}

/-- What position `p` of two words differs by, as the syndromes see it. -/
def errorAt (k : RsSlot) (M : FieldModel t F) (recv word : List Nat) (p : ℕ) : F :=
  M.toF (recv.getD p 0 ^^^ word.getD p 0) * M.locAt recv.length p ^ k.fcr

include h

/-- A syndrome is the sum of the places' contributions (R156). -/
theorem coeff_low_rsSyndromes (hrecv : Elements t recv) {i : ℕ} (hi : i < k.nsym) :
    (M.low (rsSyndromes t k recv)).coeff i =
      ∑ p ∈ Finset.range recv.length,
        M.toF (recv.getD p 0) * M.locAt recv.length p ^ k.fcr * M.locAt recv.length p ^ i := by
  have hlen : i < (rsSyndromes t k recv).length := by rwa [rsSyndromes_length]
  rw [M.coeff_low, List.getD_eq_getElem _ _ hlen]
  simp only [rsSyndromes, List.getElem_map, List.getElem_range]
  rw [M.toF_polyEval hrecv (h.gfPow_a_lt _), h.toF_gfPow_a M, zpow_natCast]
  refine Finset.sum_congr rfl fun p _ => ?_
  rw [FieldModel.locAt, mul_assoc, ← pow_mul, ← pow_mul, ← pow_mul, ← pow_add]
  congr 2
  ring

variable (hrecv : Elements t recv) (hword : Elements t word) (hlen : word.length = recv.length)
  (hzero : rsSyndromes t k word = List.replicate k.nsym 0) {T : Finset ℕ} (hT : ∀ p ∈ T, p < recv.length)
  (hagree : ∀ p, p ∉ T → recv.getD p 0 = word.getD p 0)

include hrecv hword hlen hzero hT hagree

/-- The syndromes of a received word are those of its difference from a codeword. -/
theorem coeff_low_rsSyndromes_eq {i : ℕ} (hi : i < k.nsym) :
    (M.low (rsSyndromes t k recv)).coeff i = ∑ p ∈ T, errorAt k M recv word p * M.locAt recv.length p ^ i := by
  have hsub : T ⊆ Finset.range recv.length := fun p hp => Finset.mem_range.2 (hT p hp)
  have hcode := h.coeff_low_rsSyndromes M hword hi
  rw [hzero, M.low_replicate_zero, coeff_zero, hlen] at hcode
  rw [h.coeff_low_rsSyndromes M hrecv hi, ← add_zero (∑ p ∈ Finset.range recv.length, _), hcode,
    ← Finset.sum_add_distrib, Finset.sum_subset hsub fun p _ hp => ?_]
  · refine Finset.sum_congr rfl fun p _ => ?_
    rw [errorAt, M.xor (getD_lt hrecv p) (getD_lt hword p)]
    ring
  · rw [errorAt, hagree p hp, Nat.xor_self, M.zero, zero_mul, zero_mul]

theorem key_equation_syndromes {j : ℕ} (hj : j < k.nsym) :
    (locator (M.locAt recv.length) T * M.low (rsSyndromes t k recv)).coeff j =
      (evaluatorOf (M.locAt recv.length) (errorAt k M recv word) T).coeff j := by
  have := M.charP
  exact key_equation (fun i hi => h.coeff_low_rsSyndromes_eq M hrecv hword hlen hzero hT hagree hi) hj

omit h hlen hzero hT hagree in
theorem errorAt_eq_zero_iff {p : ℕ} : errorAt k M recv word p = 0 ↔ recv.getD p 0 = word.getD p 0 := by
  rw [errorAt, mul_eq_zero, or_iff_left (pow_ne_zero _ (M.locAt_ne_zero _ _)),
    M.toF_eq_zero_iff (Nat.xor_lt_two_pow (getD_lt hrecv p) (getD_lt hword p)), Nat.xor_eq_zero_iff]

/-- Two codewords that differ in at most `nsym` places are the same (R151). -/
theorem eq_of_syndromes_zero (hn : recv.length ≤ t.order) (hcard : T.card ≤ k.nsym)
    (hrz : ∀ x ∈ rsSyndromes t k recv, x = 0) : recv = word := by
  obtain ⟨F, _, ⟨M⟩⟩ := h.built.exists_model
  have := M.charP
  have hlow : M.low (rsSyndromes t k recv) = 0 := by
    rw [List.eq_replicate_iff.2 ⟨rfl, hrz⟩, M.low_replicate_zero]
  have hevaluator : evaluatorOf (M.locAt recv.length) (errorAt k M recv word) T = 0 := by
    ext j
    by_cases hj : j < k.nsym
    · rw [← h.key_equation_syndromes M hrecv hword hlen hzero hT hagree hj, hlow, mul_zero]
    · rw [evaluatorOf_coeff_eq_zero (by omega), coeff_zero]
  refine eq_of_getD hlen.symm fun p => ?_
  by_cases hp : p ∈ T
  · have hne := M.locAt_ne_zero recv.length p
    have heval := evaluatorOf_eval (w := errorAt k M recv word) hp hne
    rw [hevaluator, eval_zero, eq_comm, mul_eq_zero] at heval
    exact (errorAt_eq_zero_iff M hrecv hword).1
      (heval.resolve_right (locator_erase_eval_ne_zero hp (M.locAt_injOn hn hT) hne))
  · exact hagree p hp

/-! ### Correction (R163) -/

variable {pos : List Nat} (hn : recv.length ≤ t.order) (hcard : T.card ≤ k.nsym) (hnodup : pos.Nodup)
  (hmem : pos.toFinset = T)

include hn hcard hnodup hmem

/-- The magnitudes are the differences. -/
theorem magnitude_eq_error {p : ℕ} (hp : p ∈ pos) :
    magnitude t k.fcr (locatorOf t (pos.map fun p => locatorValue t k p recv.length))
      (evaluator t k.nsym (rsSyndromes t k recv) (locatorOf t (pos.map fun p => locatorValue t k p recv.length)))
      (locatorValue t k p recv.length) = some (recv.getD p 0 ^^^ word.getD p 0) := by
  obtain ⟨F, _, ⟨M⟩⟩ := h.built.exists_model
  have := M.charP
  have hpT : p ∈ T := hmem ▸ List.mem_toFinset.2 hp
  have hpos : ∀ q ∈ pos, q < recv.length := fun q hq => hT q (hmem ▸ List.mem_toFinset.2 hq)
  have hsyn : Elements t (rsSyndromes t k recv) := M.opsBelow.rsSyndromes h.a_lt hrecv
  have hlo := M.opsBelow.locatorOf_positions h.a_lt pos recv.length
  have hlow := h.low_locatorOf M hpos
  rw [locator_of_nodup hnodup, hmem] at hlow
  have hlone : locatorOf t (pos.map fun p => locatorValue t k p recv.length) ≠ [] := by
    rw [← List.length_pos_iff, locatorOf_length]
    exact Nat.succ_pos _
  have hom : M.low (evaluator t k.nsym (rsSyndromes t k recv)
      (locatorOf t (pos.map fun p => locatorValue t k p recv.length))) =
      evaluatorOf (M.locAt recv.length) (errorAt k M recv word) T := by
    ext j
    rw [evaluator, M.low_take, M.low_polyMul hsyn hlo hlone, hlow, mul_comm]
    split
    next hj => exact h.key_equation_syndromes M hrecv hword hlen hzero hT hagree hj
    next hj => rw [evaluatorOf_coeff_eq_zero (by omega)]
  have homElements : Elements t (evaluator t k.nsym (rsSyndromes t k recv)
      (locatorOf t (pos.map fun p => locatorValue t k p recv.length))) := fun x hx =>
    M.opsBelow.polyMul hsyn hlo x (List.mem_of_mem_take hx)
  have hval := h.toF_locatorValue M (hpos p hp)
  have hne := M.locAt_ne_zero recv.length p
  have herase := locator_erase_eval_ne_zero hpT (M.locAt_injOn hn hT) hne
  obtain ⟨y, hy, hylt, hyeq⟩ := (M.magnitude_eq hlo homElements (h.locatorValue_lt p _) (hval ▸ hne) k.fcr).2 (by
      rw [hval, hlow, derivative_locator_eval hpT hne]
      exact mul_ne_zero hne herase)
  have hdiff : recv.getD p 0 ^^^ word.getD p 0 < 2 ^ t.m := Nat.xor_lt_two_pow (getD_lt hrecv p) (getD_lt hword p)
  rw [hy]
  refine congrArg some (M.inj hylt hdiff ?_)
  rw [hyeq, hval, hlow, derivative_locator_eval hpT hne, hom, evaluatorOf_eval hpT hne, errorAt, zpow_sub₀ hne, zpow_one,
    zpow_natCast]
  exact magnitude_cancel hne herase _ _

/-- With the positions found the codeword is restored. -/
theorem rsCorr_eq_word : rsCorr t k recv (rsSyndromes t k recv) pos = some word := by
  have hfold := applyErrata_eq_some (recv := recv) fun p hp =>
    h.magnitude_eq_error hrecv hword hlen hzero hT hagree hn hcard hnodup hmem hp
  refine hfold.trans (congrArg some (eq_of_getD (foldl_modify_length.trans hlen.symm) fun q => ?_))
  by_cases hq : q ∈ pos
  · rw [foldl_modify_getD_of_mem hnodup (fun p hp => hT p (hmem ▸ List.mem_toFinset.2 hp)) hq, ← Nat.xor_assoc,
      Nat.xor_self, Nat.zero_xor]
  · rw [foldl_modify_getD_of_notMem hq]
    exact hagree q fun hT => hq (List.mem_toFinset.1 (hmem ▸ hT))

end CodeOver

end Sys2Proof.Machine
end

section
/-! PROOFS. `RS.DEC` (43_reed_solomon.md R165 to R167): within capacity the decoder returns the codeword sent; with a
repeated erasure the root search fails; what ends with `OK` is a codeword. -/

namespace Sys2Proof.Machine

open Sys2Proof.Config
open Polynomial

namespace CodeOver

variable {t : FieldSlot} {k : RsSlot} (h : CodeOver t k)

include h

/-! ### The positions found (R161) -/

section Positions

variable {F : Type} [Field F] (M : FieldModel t F) {loc : List Nat} {n : Nat} (hloc : Elements t loc)

include hloc

/-- The root search tries the inverse locator values. -/
theorem mem_rootPositions_iff {p : Nat} :
    p ∈ rootPositions t k loc n ↔ p < n ∧ (M.high loc).eval (M.locAt n p)⁻¹ = 0 := by
  rw [mem_rootPositions, M.polyEval_eq_zero_iff hloc (h.gfPow_a_lt _), h.toF_gfPow_a M, zpow_neg, zpow_natCast,
    FieldModel.locAt]

/-- The search finds the positions of a locator. -/
theorem rsEpos_of_locator (hne : loc ≠ []) (hhead : loc.head? ≠ some 0) (hn : n ≤ t.order) {T : Finset ℕ}
    (hT : ∀ p ∈ T, p < n) (hlocator : M.high loc = locator (M.locAt n) T) :
    ∃ pos, rsEpos t k loc n = some pos ∧ pos.Nodup ∧ pos.toFinset = T := by
  have := M.charP
  have hset : (rootPositions t k loc n).toFinset = T := by
    ext p
    rw [List.mem_toFinset, h.mem_rootPositions_iff M hloc, hlocator, locator_eval_inv_eq_zero_iff (M.locAt_ne_zero n p)]
    constructor
    · rintro ⟨hp, q, hq, heq⟩
      exact M.locAt_inj hn (hT q hq) hp heq ▸ hq
    · exact fun hp => ⟨hT p hp, p, hp, rfl⟩
  have hnodup := rootPositions_nodup t k loc n
  have hlength : (rootPositions t k loc n).length = loc.length - 1 := by
    rw [← List.toFinset_card_of_nodup hnodup, hset, M.length_of_head? hloc hne hhead, hlocator,
      locator_natDegree fun p _ => M.locAt_ne_zero n p, Nat.add_sub_cancel]
  refine ⟨_, ?_, hnodup, hset⟩
  rw [rsEpos_eq, stripLeading_of_head? hhead, if_pos hlength]

end Positions

section Loop

variable {F : Type} [Field F] (M : FieldModel t F) {syn eras : List Nat} {n : Nat} (hsyn : Elements t syn)
  (hlen : eras.length ≤ k.nsym) (heras : ∀ e ∈ eras, e < n)

omit h in
/-- The locator as `rs_eloc` returns it. -/
theorem high_rsEloc : M.high (rsEloc t k syn eras n) = M.low (elocState t k syn eras n).lo := by
  rw [rsEloc_eq, M.high_stripLeading, FieldModel.high, List.reverse_reverse]

include hsyn hlen heras

/-- A repeated erasure is a double root of the locator, which then has too few positions (R166). -/
theorem rsEpos_of_repeated (hn : n ≤ t.order) (hdouble : ¬ eras.Nodup) :
    rsEpos t k (rsEloc t k syn eras n) n = none := by
  obtain ⟨F, _, ⟨M⟩⟩ := h.built.exists_model
  have := M.charP
  have hloc : Elements t (rsEloc t k syn eras n) := h.rsEloc_elements hsyn
  obtain ⟨-, hhead⟩ := h.rsEloc_ends hsyn hlen heras
  have hinv := (h.loopInv_final M hsyn hlen heras).inv
  rw [← high_rsEloc M] at hinv
  cases hpos : rsEpos t k (rsEloc t k syn eras n) n with
  | none => rfl
  | some pos =>
    exfalso
    rw [rsEpos_eq, stripLeading_of_head? hhead] at hpos
    split at hpos
    next hlength =>
      cases hpos
      have hnodup := rootPositions_nodup t k (rsEloc t k syn eras n) n
      have hcard := List.toFinset_card_of_nodup hnodup
      have hroots : ∀ p ∈ (rootPositions t k (rsEloc t k syn eras n) n).toFinset,
          p < n ∧ (M.high (rsEloc t k syn eras n)).eval (M.locAt n p)⁻¹ = 0 := fun p hp =>
        (h.mem_rootPositions_iff M hloc).1 (List.mem_toFinset.1 hp)
      have hdeg : (M.high (rsEloc t k syn eras n)).natDegree ≤
          (rootPositions t k (rsEloc t k syn eras n) n).toFinset.card := by
        have := M.length_of_head? hloc (rsEloc_ne_nil t k syn eras n) hhead
        omega
      have hinj := M.locAt_injOn hn fun p hp => (hroots p hp).1
      have hlocator := eq_locator_of_roots hdeg hinv.const (fun p _ => M.locAt_ne_zero n p) hinj
        fun p hp => (hroots p hp).2
      obtain ⟨P, hP, -⟩ := hinv.sigma
      obtain ⟨p, -, R, hR⟩ := exists_double_of_not_nodup hdouble fun e => factor (M.locAt n e)
      have hne := M.locAt_ne_zero n p
      have hderivative := derivative_eval_of_double hne (R * P)
      have hfactors : M.high (rsEloc t k syn eras n) = factor (M.locAt n p) * (factor (M.locAt n p) * (R * P)) := by
        rw [hP, hR]
        ring
      have hzero : (M.high (rsEloc t k syn eras n)).eval (M.locAt n p)⁻¹ = 0 := by
        rw [hfactors, eval_mul, factor_eval_inv hne, zero_mul]
      rw [hlocator, locator_eval_inv_eq_zero_iff hne] at hzero
      obtain ⟨q, hq, hval⟩ := hzero
      rw [← hfactors, hlocator, ← hval, derivative_locator_eval hq (M.locAt_ne_zero n q)] at hderivative
      exact mul_ne_zero (M.locAt_ne_zero n q) (locator_erase_eval_ne_zero hq hinj (M.locAt_ne_zero n q)) hderivative
    next => cases hpos

end Loop

/-! ### The decoder (R165) -/

section Decode

variable {recv eras : List Nat}

omit h in
theorem rsDecode_of_corrected {pos cor : List Nat} (hz : allZero (rsSyndromes t k recv) = false)
    (hlen : eras.length ≤ k.nsym)
    (hpos : rsEpos t k (rsEloc t k (rsSyndromes t k recv) eras recv.length) recv.length = some pos)
    (hcor : rsCorr t k recv (rsSyndromes t k recv) pos = some cor) (hcz : allZero (rsSyndromes t k cor) = true) :
    rsDecode t k recv eras = .ok (splitWord k.nsym cor pos.length) := by
  unfold rsDecode
  dsimp only
  rw [if_neg (by rw [hz]; decide), if_neg (Nat.not_lt_of_le hlen), hpos]
  dsimp only
  rw [hcor]
  dsimp only
  rw [if_pos hcz]

omit h in
theorem rsDecode_of_not_found (hz : allZero (rsSyndromes t k recv) = false) (hlen : eras.length ≤ k.nsym)
    (hpos : rsEpos t k (rsEloc t k (rsSyndromes t k recv) eras recv.length) recv.length = none) :
    rsDecode t k recv eras = .error .locatorNotFound := by
  unfold rsDecode
  dsimp only
  rw [if_neg (by rw [hz]; decide), if_neg (Nat.not_lt_of_le hlen), hpos]

variable {word : List Nat} (hrecv : Elements t recv) (hword : Elements t word) (hlen : word.length = recv.length)
  (hn : recv.length ≤ t.order) (hzero : rsSyndromes t k word = List.replicate k.nsym 0) {E : Finset ℕ}
  (hnodup : eras.Nodup) (hdisj : Disjoint eras.toFinset E) (hcap : 2 * E.card + eras.length ≤ k.nsym)
  (hT : ∀ p ∈ eras.toFinset ∪ E, p < recv.length)
  (hagree : ∀ p, p ∉ eras.toFinset ∪ E → recv.getD p 0 = word.getD p 0)
  (hdiffer : ∀ p ∈ E, recv.getD p 0 ≠ word.getD p 0)

include hrecv hword hlen hn hzero hnodup hdisj hcap hT hagree hdiffer

/-- Within capacity the loop ends with the locator of all the positions that count. -/
theorem low_elocState {F : Type} [Field F] (M : FieldModel t F) :
    M.low (elocState t k (rsSyndromes t k recv) eras recv.length).lo =
      locator (M.locAt recv.length) (eras.toFinset ∪ E) := by
  have := M.charP
  have hsyn : Elements t (rsSyndromes t k recv) := M.opsBelow.rsSyndromes h.a_lt hrecv
  have heras : ∀ e ∈ eras, e < recv.length := fun e he => hT e (Finset.mem_union_left _ (List.mem_toFinset.2 he))
  have hcard : eras.toFinset.card = eras.length := List.toFinset_card_of_nodup hnodup
  have hTcard : (eras.toFinset ∪ E).card = eras.toFinset.card + E.card := Finset.card_union_of_disjoint hdisj
  have hkey := fun j hj => h.key_equation_syndromes M hrecv hword hlen hzero hT hagree (j := j) hj
  have hΓ : (eras.map fun e => factor (M.locAt recv.length e)).prod = locator (M.locAt recv.length) eras.toFinset :=
    locator_of_nodup hnodup
  have hinv := (h.loopInv_final M hsyn (by omega) heras).inv
  have hexplains : ∀ j, eras.length + E.card ≤ j → j < k.nsym →
      (locator (M.locAt recv.length) E * (eras.map fun e => factor (M.locAt recv.length e)).prod *
        M.low (rsSyndromes t k recv)).coeff j = 0 := by
    intro j hj hjk
    rw [hΓ, mul_comm (locator _ E), ← locator_union hdisj, hkey j hjk, evaluatorOf_coeff_eq_zero (by omega)]
  have hL := (h.loopInv_start M heras).foldl_len_le hsyn (erasureLocator_natDegree_le M eras recv.length)
    locator_natDegree_le locator_coeff_zero hexplains (Nat.le_add_right ..) (m := k.nsym - eras.length) (by omega)
  rw [hΓ, ← hcard] at hinv
  exact hinv.eq_locator hdisj (hL.trans_eq (by rw [hcard])) (by omega) hkey (fun p _ => M.locAt_ne_zero _ p)
    (M.locAt_injOn hn hT) fun p hp => mt (errorAt_eq_zero_iff M hrecv hword).1 (hdiffer p hp)

/-- Within capacity the decoder returns the codeword sent (R167 b). -/
theorem rsDecode_within_capacity :
    rsDecode t k recv eras = .ok (splitWord k.nsym word (if recv = word then 0 else E.card + eras.length)) := by
  obtain ⟨F, _, ⟨M⟩⟩ := h.built.exists_model
  have hsyn : Elements t (rsSyndromes t k recv) := M.opsBelow.rsSyndromes h.a_lt hrecv
  have heras : ∀ e ∈ eras, e < recv.length := fun e he => hT e (Finset.mem_union_left _ (List.mem_toFinset.2 he))
  have hTcard : (eras.toFinset ∪ E).card = eras.length + E.card := by
    rw [Finset.card_union_of_disjoint hdisj, List.toFinset_card_of_nodup hnodup]
  have hwz : allZero (rsSyndromes t k word) = true := by
    rw [hzero]
    exact allZero_iff.2 fun x hx => List.eq_of_mem_replicate hx
  by_cases hz : allZero (rsSyndromes t k recv) = true
  · have heq := h.eq_of_syndromes_zero hrecv hword hlen hzero hT hagree hn (by omega) (allZero_iff.1 hz)
    rw [if_pos heq, ← heq]
    exact if_pos hz
  · have hne : recv ≠ word := fun heq => hz (heq ▸ hwz)
    obtain ⟨-, hhead⟩ := h.rsEloc_ends hsyn (by omega) heras
    obtain ⟨pos, hpos, hposnodup, hset⟩ := h.rsEpos_of_locator M (h.rsEloc_elements (eras := eras) hsyn)
      (rsEloc_ne_nil t k _ eras _) hhead hn hT ((high_rsEloc M).trans
        (h.low_elocState hrecv hword hlen hn hzero hnodup hdisj hcap hT hagree hdiffer M))
    have hcor := h.rsCorr_eq_word hrecv hword hlen hzero hT hagree hn (by omega) hposnodup hset
    rw [rsDecode_of_corrected (Bool.eq_false_of_not_eq_true hz) (by omega) hpos hcor hwz, if_neg hne,
      ← List.toFinset_card_of_nodup hposnodup, hset, hTcard, Nat.add_comm]

end Decode

end CodeOver

/-- The conditions a decoding can fail with; the last only where the correction fails. -/
theorem rsDecode_error_cases {t : FieldSlot} {k : RsSlot} {recv eras : List Nat} {c : Cond}
    (h : rsDecode t k recv eras = .error c) :
    c = .uncorrectableMessage ∨ c = .locatorNotFound ∨
      (c = .divisionByZero ∧ ∃ pos,
        rsEpos t k (rsEloc t k (rsSyndromes t k recv) eras recv.length) recv.length = some pos ∧
        rsCorr t k recv (rsSyndromes t k recv) pos = none) := by
  unfold rsDecode at h
  dsimp only at h
  split at h
  next => cases h
  next =>
    split at h
    next =>
      cases h
      exact .inl rfl
    next =>
      split at h
      next =>
        cases h
        exact .inr (.inl rfl)
      next pos hpos =>
        split at h
        next hcor =>
          cases h
          exact .inr (.inr ⟨rfl, pos, hpos, hcor⟩)
        next =>
          split at h
          next => cases h
          next =>
            cases h
            exact .inl rfl

theorem rsDecode_error_ne_ok {t : FieldSlot} {k : RsSlot} {recv eras : List Nat} {c : Cond}
    (h : rsDecode t k recv eras = .error c) : c ≠ .ok := by
  obtain rfl | rfl | ⟨rfl, -⟩ := rsDecode_error_cases h <;> decide

/-! ### `RS.DEC` (R166, R167) -/

theorem vec_of_holdsVector {u : State} {bid : BufId} {xs : List Nat} (h : HoldsVector u bid xs) : u.vec bid = xs := by
  have hlen : (u.vec bid).length = xs.length := (vec_length u bid).trans h.len
  refine List.ext_getElem hlen fun i hi hi' => ?_
  simp only [State.vec, slice, List.getElem_map, List.getElem_range, Nat.zero_add]
  exact h.cells i hi'

/-- A command that ended with `OK` has passed its check. -/
theorem passed_of_ok {c : Prop} [Decidable c] {e : Cond} {s u : State} {r : Result} (he : e ≠ .ok)
    (h : (if c then raise e s else r) = .next u) (hok : u.status.cond = .ok) : ¬ c ∧ r = .next u := by
  by_cases hc : c
  · rw [if_pos hc] at h
    cases h
    exact absurd hok he
  · rw [if_neg hc] at h
    exact ⟨hc, h⟩

/-- `RS.DEC` ends with `OK` only on legal operands. -/
theorem execRsDec_ok_operands {s u : State} {r : Nat} (hr : r < NRS) (hv : s.rs[r].valid = true)
    (h : execRsDec r s = .next u) (hok : u.status.cond = .ok) :
    s.rs[r].nsym + 1 ≤ s.lenOf .a ∧ s.lenOf .a ≤ s.fields[s.rs[r].field].order ∧ s.lenOf .b ≤ VLEN ∧
      (∀ x ∈ s.vec .a, x < 2 ^ s.fields[s.rs[r].field].m) ∧ ∀ x ∈ s.vec .b, x < s.lenOf .a := by
  have hbody := (withCode_passed hr hv rfl).symm.trans h
  obtain ⟨hlen, hbody⟩ := passed_of_ok (by decide) hbody hok
  obtain ⟨hb, hbody⟩ := passed_of_ok (by decide) hbody hok
  obtain ⟨hcells, hbody⟩ := passed_of_ok (by decide) hbody hok
  obtain ⟨hera, -⟩ := passed_of_ok (by decide) hbody hok
  obtain ⟨hlo, hhi⟩ := lengthOutside_eq_false_iff.1 hlen
  rw [someCellFrom_iff] at hcells hera
  push Not at hcells hera
  exact ⟨hlo, hhi, Nat.le_of_not_lt hb, hcells, hera⟩

/-- The undeclared positions at which two words of length `n` differ. -/
def errorPositions (n : Nat) (recv word eras : List Nat) : Finset ℕ :=
  ((List.range n).filter fun p => p ∉ eras ∧ recv[p]? ≠ word[p]?).toFinset

theorem mem_errorPositions {n : Nat} {recv word eras : List Nat} {p : Nat} :
    p ∈ errorPositions n recv word eras ↔ p < n ∧ p ∉ eras ∧ recv[p]? ≠ word[p]? := by
  simp only [errorPositions, List.mem_toFinset, List.mem_filter, List.mem_range, decide_eq_true_eq]

/-- Settles O41. -/
theorem decodedWordIsCodeword : Obligations.DecodedWordIsCodeword := by
  refine ⟨fun s u r hr hs hv hu hok => ?codeword, fun s r hr hs hv => ?decoded⟩
  case codeword =>
    obtain ⟨hlen, hn, hb, hcells, hera⟩ := execRsDec_ok_operands hr hv hu hok
    obtain ⟨hdone, hfails⟩ := decoderCompletes s r hr hs hv hlen hn hb hcells hera
    cases hd : rsDecode s.fields[s.rs[r].field] s.rs[r] (s.vec .a) (s.vec .b) with
    | error c =>
      have hc : c ≠ .ok := rsDecode_error_ne_ok hd
      obtain rfl : u = endWith c s := Host.Outcome.next.inj (hu.symm.trans (hfails c hd))
      exact absurd hok hc
    | ok d =>
      obtain ⟨u', hu', -, hw, hrl, hql, -⟩ := hdone d hd
      obtain rfl : u = u' := Host.Outcome.next.inj (hu.symm.trans hu')
      obtain ⟨word, count, rfl, -, hz, -⟩ := rsDecode_ok_word hd
      refine ⟨by omega, hql, ?_⟩
      rw [vec_of_holdsVector hw.outputR, vec_of_holdsVector hw.outputQ, splitWord, List.take_append_drop]
      exact List.eq_replicate_iff.2 ⟨rsSyndromes_length .., allZero_iff.1 hz⟩
  intro k t n hlen hn hb hcells hera
  have hcode : CodeOver t k := hs.codeOver hv
  have hlength : (s.vec .a).length = n := vec_length s .a
  have hblen : (s.vec .b).length = s.lenOf .b := vec_length s .b
  have hn' : (s.vec .a).length ≤ t.order := hlength.trans_le hn
  refine ⟨?within, ?beyond⟩
  case within =>
    intro hnodup word hwl hword hzero errors hcap
    have hE := fun p => mem_errorPositions (n := n) (recv := s.vec .a) (word := word) (eras := s.vec .b) (p := p)
    have hEcard : (errorPositions n (s.vec .a) word (s.vec .b)).card = errors :=
      List.toFinset_card_of_nodup (List.nodup_range.filter _)
    have hget : ∀ {p}, p < n → ((s.vec .a)[p]? = word[p]? ↔ (s.vec .a).getD p 0 = word.getD p 0) := by
      intro p hp
      rw [List.getElem?_eq_getElem (by omega), List.getElem?_eq_getElem (by omega), Option.some_inj,
        List.getD_eq_getElem _ _ (by omega), List.getD_eq_getElem _ _ (by omega)]
    have hdecode := hcode.rsDecode_within_capacity hcells hword (hwl.trans hlength.symm) hn' hzero hnodup
      (E := errorPositions n (s.vec .a) word (s.vec .b)) (Finset.disjoint_left.2 fun p hp hpE => ((hE p).1 hpE).2.1 (List.mem_toFinset.1 hp)) (by omega)
      (fun p hp => ?_) (fun p hp => ?_) fun p hp => ?_
    · obtain ⟨u, hu, hends, hw, -, -, hcount, hk⟩ := (decoderCompletes s r hr hs hv hlen hn hb hcells hera).1 _ hdecode
      refine ⟨u, hu, hends, hk, ?_, ?_⟩
      · rwa [splitWord, hwl] at hw
      · rw [hcount, ← hEcard, ← hblen]
        rfl
    · rw [hlength]
      obtain hp | hp := Finset.mem_union.1 hp
      · exact hera p (List.mem_toFinset.1 hp)
      · exact ((hE p).1 hp).1
    · obtain ⟨hpb, hpE⟩ := not_or.1 (mt Finset.mem_union.2 hp)
      by_cases hpn : p < n
      · by_contra hne
        exact hpE ((hE p).2 ⟨hpn, mt List.mem_toFinset.2 hpb, mt (hget hpn).1 hne⟩)
      · rw [List.getD_eq_default _ _ (by omega), List.getD_eq_default _ _ (by omega)]
    · obtain ⟨hpn, -, hne⟩ := (hE p).1 hp
      exact mt (hget hpn).2 hne
  case beyond =>
    intro hne
    have hz : allZero (rsSyndromes t k (s.vec .a)) = false := by
      refine Bool.eq_false_of_not_eq_true fun hz => hne ?_
      exact List.eq_replicate_iff.2 ⟨rsSyndromes_length .., allZero_iff.1 hz⟩
    have hfails := (decoderCompletes s r hr hs hv hlen hn hb hcells hera).2
    refine ⟨fun hmany => hfails _ ?_, fun hfew hdouble => hfails _ ?_⟩
    · exact (if_neg (by rw [hz]; decide)).trans (if_pos (hmany.trans_eq hblen.symm))
    · have hsyn : Elements t (rsSyndromes t k (s.vec .a)) := by
        obtain ⟨F, _, ⟨M⟩⟩ := hcode.built.exists_model
        exact M.opsBelow.rsSyndromes hcode.a_lt hcells
      exact CodeOver.rsDecode_of_not_found hz (hblen.trans_le hfew) (hcode.rsEpos_of_repeated hsyn (hblen.trans_le hfew)
        (fun e he => (hera e he).trans_eq hlength.symm) hn' hdouble)

end Sys2Proof.Machine
end

section
/-! PROOFS. How a command can end (60_exceptions.md R242 to R244, R247): with `OK`, or with a condition of its row over the
state it found, but for the three stated exceptions. -/

namespace Sys2Proof.Machine

open Sys2Proof.Config

/-- A command started in `s` ends with `OK`, or with one of `conds`: over `s` itself, or as `extra` says. -/
inductive EndsAs (s : State) (conds : List Cond) (extra : Cond → State → Prop) : Result → Prop
  | completed (u : State) : EndsAs s conds extra (complete u)
  | precise {k : Cond} (h : k ∈ conds) : EndsAs s conds extra (raise k s)
  | special {k : Cond} {u : State} (h : k ∈ conds) (hu : extra k u) : EndsAs s conds extra (raise k u)

namespace EndsAs

variable {s : State} {conds : List Cond} {extra : Cond → State → Prop}

theorem check {c : Prop} [Decidable c] {k : Cond} {b : Result} (hb : ¬ c → EndsAs s conds extra b)
    (hk : k ∈ conds := by decide) : EndsAs s conds extra (if c then raise k s else b) := by
  split
  next => exact .precise hk
  next hc => exact hb hc

/-- Steps 3 and 4 of a command that uses a slot (R86). -/
theorem slot {α : Type} {n : Nat} {slots : Vector α n} {valid : α → Bool} {j : Nat} {go : α → Result}
    (hgo : ∀ hj : j < n, valid slots[j] = true → EndsAs s conds extra (go slots[j]))
    (h3 : .operandRange ∈ conds := by decide) (h4 : .tableNotBuilt ∈ conds := by decide) :
    EndsAs s conds extra (withBuilt slots valid j s go) := by
  unfold withBuilt
  split
  next hj =>
    split
    next hv => exact hgo hj hv
    next => exact .precise h4
  next => exact .precise h3

/-- Steps 3 and 4 of a build command (R86). -/
theorem freeSlot {α : Type} {n : Nat} {slots : Vector α n} {valid : α → Bool} {j : Nat} {go : j < n → Result}
    (hgo : ∀ hj : j < n, valid slots[j] = false → EndsAs s conds extra (go hj))
    (h3 : .operandRange ∈ conds := by decide) (h4 : .configError ∈ conds := by decide) :
    EndsAs s conds extra (withUnbuilt slots valid j s go) := by
  unfold withUnbuilt
  split
  next hj =>
    split
    next => exact .precise h4
    next hv => exact hgo hj (Bool.eq_false_of_not_eq_true hv)
  next => exact .precise h3

/-- Steps 3 and 4 of a Reed-Solomon command, whose code is legal (R86, R150). -/
theorem code {r : Nat} {go : RsSlot → FieldSlot → Result} (hs : s.Sound)
    (hgo : ∀ k t, CodeOver t k → EndsAs s conds extra (go k t)) (h3 : .operandRange ∈ conds := by decide)
    (h4 : .tableNotBuilt ∈ conds := by decide) : EndsAs s conds extra (withCode r s go) :=
  slot (fun _ hv => hgo _ _ (hs.codeOver hv)) h3 h4

end EndsAs

/-- What is written before the end with a condition other than `OK` (R244): by `BCH.REPAIR` and `BCH.LOOKUP`, `RS.FIX`, and
`GF.BUILD`. -/
def writesBeforeEnd (s : State) : Instr → Cond → State → Prop
  | .bchRepair, k, u | .bchLookup _, k, u =>
    k = .uncorrectable ∧ ∃ synd, u = ((writeOut .r (s.vec .a) s).setRes0 sentinel).setRes1 synd
  | .rsFix _, k, u =>
    (k = .locatorNotFound ∨ k = .uncorrectableMessage) ∧ u = ((writeOut .q [] (writeOut .r [] s)).setRes0 0).setRes1 0
  | .gfBuild f, k, u =>
    k = .configError ∧ ∃ hf : f < NF, s.fields[f].valid = false ∧
      u = { s with fields := s.fields.set f { s.fields[f] with exp := [], log := [] } hf }
  | _, _, _ => False

/-- A decoding over a legal code never divides by zero: the positions found are different (R165, R247). -/
theorem CodeOver.rsDecode_error {t : FieldSlot} {k : RsSlot} (h : CodeOver t k) {recv eras : List Nat} {c : Cond}
    (hn : recv.length ≤ t.order) (hrecv : Elements t recv) (he : rsDecode t k recv eras = .error c) :
    c = .locatorNotFound ∨ c = .uncorrectableMessage := by
  obtain rfl | rfl | ⟨rfl, pos, hpos, hcor⟩ := rsDecode_error_cases he
  · exact .inr rfl
  · exact .inl rfl
  · have hsyn : Elements t (rsSyndromes t k recv) := by
      obtain ⟨F, _, ⟨M⟩⟩ := h.built.exists_model
      exact M.opsBelow.rsSyndromes h.a_lt hrecv
    obtain ⟨out, hout⟩ := h.rsCorr_of_nodup hn hsyn (rsEpos_lt hpos) (rsEpos_nodup hpos)
    rw [hcor] at hout
    cases hout

theorem elements_of_check {t : FieldSlot} {xs : List Nat} (h : ¬ someCellFrom (2 ^ t.m) xs = true) : Elements t xs := by
  rw [someCellFrom_iff] at h
  push Not at h
  exact h

section Commands

variable {s : State}

theorem execGfBuild_endsAs (f : Nat) :
    EndsAs s [.operandRange, .configError] (writesBeforeEnd s (.gfBuild f)) (execGfBuild f s) :=
  .freeSlot fun hf hv => .check fun _ => by
    cases buildTables s.arg0 s.arg1 s.arg2 with
    | none => exact .special (by decide) ⟨rfl, hf, hv, rfl⟩
    | some tables => exact .completed _

theorem execGfDiv_endsAs (f : Nat) :
    EndsAs s [.operandRange, .tableNotBuilt, .divisionByZero] (writesBeforeEnd s (.gfDiv f)) (execGfDiv f s) :=
  .slot fun hf _ => .check fun _ => by
    cases gfDiv s.fields[f] s.arg0 s.arg1 with
    | none => exact .precise (by decide)
    | some z => exact .completed _

/-- Both ends of `BCH.REPAIR` and `BCH.LOOKUP` (R136, R138). -/
theorem writeRepair_endsAs {conds : List Cond} {extra : Cond → State → Prop} (synd : Nat) (found : Option (Nat × Nat))
    (h : .uncorrectable ∈ conds)
    (hextra : extra .uncorrectable (((writeOut .r (s.vec .a) s).setRes0 sentinel).setRes1 synd)) :
    EndsAs s conds extra (writeRepair (s.vec .a) synd found s) := by
  cases found with
  | none => exact .special h hextra
  | some p => exact .completed _

theorem execBchRepair_endsAs :
    EndsAs s [.operandRange, .lengthError, .uncorrectable] (writesBeforeEnd s .bchRepair) (execBchRepair s) :=
  .check fun _ => .check fun _ => .check fun _ => writeRepair_endsAs _ _ (by decide) ⟨rfl, _, rfl⟩

theorem execBchLookup_endsAs (c : Nat) :
    EndsAs s [.operandRange, .lengthError, .tableNotBuilt, .uncorrectable] (writesBeforeEnd s (.bchLookup c))
      (execBchLookup c s) :=
  .slot fun _ _ => .check fun _ => .check fun _ => writeRepair_endsAs _ _ (by decide) ⟨rfl, _, rfl⟩

theorem execBchSynrd_endsAs (c : Nat) :
    EndsAs s [.operandRange, .tableNotBuilt] (writesBeforeEnd s (.bchSynrd c)) (execBchSynrd c s) :=
  .slot fun hc _ => .check fun _ => by
    cases synAt s.bch[c].syn s.arg0 with
    | none => exact .completed _
    | some e => exact .completed _

theorem execRsCfg_endsAs (r : Nat) :
    EndsAs s [.operandRange, .configError] (writesBeforeEnd s (.rsCfg r)) (execRsCfg r s) :=
  .freeSlot fun _ _ => by
    split
    next => exact .check fun _ => .check fun _ => .completed _
    next => exact .precise (by decide)

theorem execRsEpos_endsAs (hs : s.Sound) (r : Nat) :
    EndsAs s [.operandRange, .lengthError, .tableNotBuilt, .locatorNotFound] (writesBeforeEnd s (.rsEpos r))
      (execRsEpos r s) :=
  .code hs fun k t _ => .check fun _ => .check fun _ => .check fun _ => by
    cases rsEpos t k (s.vec .a) s.arg0 with
    | none => exact .precise (by decide)
    | some pos => exact .completed _

theorem execRsCorr_endsAs (hs : s.Sound) (r : Nat) :
    EndsAs s [.operandRange, .lengthError, .tableNotBuilt, .divisionByZero] (writesBeforeEnd s (.rsCorr r))
      (execRsCorr r s) :=
  .code hs fun k t _ => .check fun _ => .check fun _ => .check fun _ => .check fun _ => .check fun _ => .check fun _ => by
    cases rsCorr t k (s.vec .a) (s.vec .b) (s.vec .c) with
    | none => exact .precise (by decide)
    | some out => exact .completed _

theorem execRsDec_endsAs (hs : s.Sound) (r : Nat) :
    EndsAs s [.operandRange, .lengthError, .tableNotBuilt, .locatorNotFound, .uncorrectableMessage]
      (writesBeforeEnd s (.rsDec r)) (execRsDec r s) :=
  .code hs fun k t hcode => .check fun hlen => .check fun _ => .check fun hcells => .check fun _ => by
    cases hd : rsDecode t k (s.vec .a) (s.vec .b) with
    | error c =>
      have hn : (s.vec .a).length ≤ t.order := (vec_length s .a).trans_le (lengthOutside_eq_false_iff.1 hlen).2
      obtain rfl | rfl := hcode.rsDecode_error hn (elements_of_check hcells) hd
      · exact .precise (by decide)
      · exact .precise (by decide)
    | ok d => exact .completed _

theorem execRsFix_endsAs (hs : s.Sound) (r : Nat) :
    EndsAs s [.operandRange, .lengthError, .tableNotBuilt, .locatorNotFound, .uncorrectableMessage]
      (writesBeforeEnd s (.rsFix r)) (execRsFix r s) :=
  .code hs fun k t hcode => .check fun hop => .check fun hlong => .check fun hcells => by
    cases hd : rsFix t k s.arg1 (s.vec .a) with
    | error c =>
      obtain ⟨-, -, -, hle⟩ := badFrame_passed hop hlong
      have hn : (s.vec .a ++ List.replicate s.arg1 0).length ≤ t.order := by
        rwa [List.length_append, List.length_replicate, vec_length]
      have hc := hcode.rsDecode_error hn (append_lt (elements_of_check hcells) (replicate_zero_lt _ _)) hd
      refine .special ?_ ⟨hc, rfl⟩
      obtain rfl | rfl := hc
      · decide
      · decide
    | ok d => exact .completed _

theorem execBufCopy_endsAs :
    EndsAs s [.operandRange, .lengthError] (writesBeforeEnd s .bufCopy) (execBufCopy s) := by
  unfold execBufCopy
  split
  next => exact .precise (by decide)
  next => exact .check fun _ => .check fun _ => .completed _

end Commands

/-- Every command ends as its row of R242 says, and precisely but for the exceptions of R244. -/
theorem exec_endsAs {s : State} (hs : s.Sound) (i : Instr) :
    EndsAs s i.conditions (writesBeforeEnd s i) (exec i s) := by
  cases i
  all_goals dsimp only [Instr.conditions, exec]
  case sysNop => exact .completed _
  case gfBuild f => exact execGfBuild_endsAs f
  case gfAdd | gfMul | gfExp | gfLog => exact .slot fun _ _ => .check fun _ => .completed _
  case gfDiv f => exact execGfDiv_endsAs f
  case gfPadd => exact .slot fun _ _ => .check fun _ => .check fun _ => .check fun _ => .check fun _ => .completed _
  case gfPmul =>
    exact .slot fun _ _ => .check fun _ => .check fun _ => .check fun _ => .check fun _ => .check fun _ => .completed _
  case bchBuild | pnCfg => exact .freeSlot fun _ _ => .check fun _ => .completed _
  case bchDiv | cvEnc | frDeint => exact .check fun _ => .check fun _ => .check fun _ => .completed _
  case bchRepair => exact execBchRepair_endsAs
  case bchLookup c => exact execBchLookup_endsAs c
  case bchSynrd c => exact execBchSynrd_endsAs c
  case rsCfg r => exact execRsCfg_endsAs r
  case rsGpoly => exact .code hs fun _ _ _ => .completed _
  case rsEnc | rsSynd => exact .code hs fun _ _ _ => .check fun _ => .check fun _ => .completed _
  case rsEloc =>
    exact .code hs fun _ _ _ => .check fun _ => .check fun _ => .check fun _ => .check fun _ => .check fun _ => .completed _
  case rsEpos r => exact execRsEpos_endsAs hs r
  case rsCorr r => exact execRsCorr_endsAs hs r
  case rsDec r => exact execRsDec_endsAs hs r
  case rsCheck => exact .code hs fun _ _ _ => .check fun _ => .check fun _ => .check fun _ => .completed _
  case rsFix r => exact execRsFix_endsAs hs r
  case pnPunc => exact .slot fun _ _ => .check fun _ => .check fun _ => .completed _
  case pnDepunc => exact .slot fun _ _ => .check fun _ => .check fun _ => .check fun _ => .completed _
  case frNorm => exact .check fun _ => .check fun _ => .check fun _ => .check fun _ => .completed _
  case frCsum16 | frRev8 => exact .check fun _ => .completed _
  case bufCopy => exact execBufCopy_endsAs

/-- Settles O8. -/
theorem everyCommandEndsAsListed : Obligations.EveryCommandEndsAsListed := by
  intro s t i hs ht
  have h := exec_endsAs hs i
  rw [ht] at h
  cases h with
  | completed u => exact .inl rfl
  | precise hk => exact .inr hk
  | special hk hu => exact .inr hk

/-- What `BCH.REPAIR` and `BCH.LOOKUP` leave with `Uncorrectable` (R136, R138). -/
theorem uncorrectable_leaves (s : State) (synd : Nat) :
    EndsWith .uncorrectable s (endWith .uncorrectable (((writeOut .r (s.vec .a) s).setRes0 sentinel).setRes1 synd)) ∧
      WritesR s (endWith .uncorrectable (((writeOut .r (s.vec .a) s).setRes0 sentinel).setRes1 synd)) (s.vec .a) ∧
      (endWith .uncorrectable (((writeOut .r (s.vec .a) s).setRes0 sentinel).setRes1 synd)).res.r0 = 0xFFFFFFFF ∧
      KeepsRes23 s (endWith .uncorrectable (((writeOut .r (s.vec .a) s).setRes0 sentinel).setRes1 synd)) :=
  ⟨endsWith_endWith (by simp) (by simp),
    writesR_endWith ((vec_length s .a).trans_lt (BitVec.isLt _)) (vec_lt_cell s .a) ⟨_, rfl⟩, rfl, ⟨rfl, rfl⟩⟩

/-- What `RS.FIX` leaves where the decoding fails (R170). -/
theorem fix_failure_leaves (s : State) (k : Cond) :
    EndsWith k s (endWith k (((writeOut .q [] (writeOut .r [] s)).setRes0 0).setRes1 0)) ∧
      WritesRQ s (endWith k (((writeOut .q [] (writeOut .r [] s)).setRes0 0).setRes1 0)) [] [] := by
  have hnil : ∀ x ∈ ([] : List Nat), x < 2 ^ 8 := fun _ h => nomatch h
  exact ⟨endsWith_endWith (by simp) (by simp),
    ended_writeRQ_setRes01 (Nat.zero_le _) hnil (Nat.zero_le _) hnil 0 0⟩

theorem slotValid_field {s : State} {f : Nat} (hf : f < NF) : s.slotValid .field f = s.fields[f].valid := dif_pos hf

/-- Settles O9. -/
theorem conditionsArePrecise : Obligations.ConditionsArePrecise := by
  intro s t i hs ht hne
  have h := exec_endsAs hs i
  rw [ht] at h
  cases h with
  | completed u => exact absurd rfl hne
  | precise hk => exact .inl rfl
  | special hk hu =>
    cases i
    case bchRepair =>
      obtain ⟨rfl, synd, rfl⟩ := hu
      exact .inr (.inl ⟨.inl rfl, rfl, uncorrectable_leaves s synd⟩)
    case bchLookup c =>
      obtain ⟨rfl, synd, rfl⟩ := hu
      exact .inr (.inl ⟨.inr ⟨c, rfl⟩, rfl, uncorrectable_leaves s synd⟩)
    case rsFix r =>
      obtain ⟨hcond, rfl⟩ := hu
      obtain ⟨hends, hw⟩ := fix_failure_leaves s _
      exact .inr (.inr (.inl ⟨⟨r, rfl⟩, hcond, hends, hw, rfl, rfl, rfl, rfl⟩))
    case gfBuild f =>
      obtain ⟨rfl, hf, hv, rfl⟩ := hu
      refine .inr (.inr (.inr ⟨f, rfl, rfl, endsWith_endWith rfl rfl, ⟨rfl, rfl, rfl, rfl, rfl, rfl⟩, rfl,
        keepsMemory_endWith fun bid => by cases bid <;> rfl, rfl, rfl, rfl, ?_,
        fun g hg hne => Vector.getElem_set_ne hf hg hne.symm⟩))
      rw [slotValid_field hf, endWith_fields, Vector.getElem_set_self]
      exact hv
    all_goals exact False.elim hu

end Sys2Proof.Machine
end
